-- ==== Sys2Proof/Word.lean ====
section
/-! DEFINITION. The word types of the block (spec/00_scope.md R10, R11): every quantity is unsigned. -/

namespace Sys2Proof

/-- A byte is 8 bits (R11). -/
abbrev Byte := BitVec 8

/-- The 32-bit quantities: checksums, offsets, the received-byte counter (R22, R120). -/
abbrev Word := BitVec 32

end Sys2Proof
end

