-- ==== Sys2Proof/Config.lean ====
section
/-! DEFINITION. The parameters of the block (spec/00_scope.md R6 to R8): the layout constants of a chunk in the
two profiles the spec allows, the fixed constants, and the record the machine is configured with. -/

namespace Sys2Proof

/-- START_MARK, the same in every profile (R6, R81). -/
def startMark : Byte := 0x02

/-- END_MARK, the same in every profile (R6, R81). -/
def endMark : Byte := 0x03

/-- POLY, the reflected CRC polynomial (R7). -/
def crcPoly : Word := 0xEDB88320

/-- CRC_INIT, the initial accumulator (R7). -/
def crcInit : Word := 0x00000000

/-- The layout constants of a chunk, one field per row of R6's table. -/
structure Layout where
  chunkSize   : Nat
  startOff    : Nat
  hdrOff      : Nat
  dataOff     : Nat
  dataCap     : Nat
  prefixBytes : Nat
  contentCap  : Nat
  cksumBytes  : Nat
  ckOff       : Nat
  endOff      : Nat
  deriving DecidableEq, Repr

/-- The profiles of R6: T is the spec's default, W keeps all 32 checksum bits (conflict C1, decision D2). -/
inductive Profile where
  | t
  | w
  deriving DecidableEq, Repr

/-- R6's table, column by column. -/
def Profile.layout : Profile → Layout
  | .t =>
    { chunkSize := 1024, startOff := 0, hdrOff := 1, dataOff := 3, dataCap := 1018, prefixBytes := 4
      contentCap := 1014, cksumBytes := 2, ckOff := 1021, endOff := 1023 }
  | .w =>
    { chunkSize := 1024, startOff := 0, hdrOff := 1, dataOff := 3, dataCap := 1016, prefixBytes := 4
      contentCap := 1012, cksumBytes := 4, ckOff := 1019, endOff := 1023 }

/-- What configures one block: its profile (R6) and MSGID_RESET (R8). Configuration, not state (R38): log 1. -/
structure Config where
  profile    : Profile
  msgIdReset : BitVec 6
  deriving DecidableEq, Repr

/-- The layout a configured block uses. -/
def Config.layout (c : Config) : Layout := c.profile.layout

/-- Profile T and MSGID_RESET 0, "when nothing else is said" (R6, R8). -/
def Config.default : Config := { profile := .t, msgIdReset := 0 }

end Sys2Proof
end

