-- ==== Sys2Proof/Machine/Bytes.lean ====
section
/-! DEFINITION. Byte sequences, byte order, and the frame access primitives (spec/00_scope.md R11, R13;
spec/20_memory.md R50), and the header's pack and unpack (spec/30_encoding.md R90, R91). -/

namespace Sys2Proof.Machine

/-- `zeros(n)` (R11). -/
def zeros (n : Nat) : List Byte := List.replicate n 0

/-- `le_n(v)`: byte `i` is `v[8i+7:8i]` (R11). -/
def le : Nat → Nat → List Byte
  | 0, _ => []
  | n + 1, v => BitVec.ofNat 8 v :: le n (v / 256)

/-- `unle(S)`, the sum of `S[i] << 8i` (R11). -/
def unle : List Byte → Nat
  | [] => 0
  | b :: bs => b.toNat + 256 * unle bs

/-- `S[a .. a+n)` (R11). -/
def slice (S : List Byte) (a n : Nat) : List Byte := (S.drop a).take n

/-- `S[i]`; every use has `i < |S|` (R11). -/
def byteAt (S : List Byte) (i : Nat) : Byte := S.getD i 0

/-- `F[addr .. addr+|bs|) <- bs` (R13). -/
def writeAt (F : List Byte) (addr : Nat) (bs : List Byte) : List Byte :=
  F.take addr ++ bs ++ F.drop (addr + bs.length)

/-- `MemRead(addr, n)` on a frame (R13). -/
def memRead (F : List Byte) (addr n : Nat) : Nat := unle (slice F addr n)

/-- `MemWrite(addr, n, v)` on a frame (R13). -/
def memWrite (F : List Byte) (addr n v : Nat) : List Byte := writeAt F addr (le n v)

/-- Header pack, `(ID << 10) or LEN` (R90). -/
def packHeader (id : BitVec 6) (len : BitVec 10) : BitVec 16 :=
  (id.setWidth 16 <<< 10) ||| len.setWidth 16

/-- Header unpack: `LEN = hdr and 0x3FF` (R91). -/
def headerLen (hdr : BitVec 16) : BitVec 10 := (hdr &&& 0x3FF).setWidth 10

/-- Header unpack: `ID = hdr >> 10` (R91). -/
def headerId (hdr : BitVec 16) : BitVec 6 := (hdr >>> 10).setWidth 6

end Sys2Proof.Machine
end

