-- ==== Sys2Proof/Syntax.lean ====
section
/-! DEFINITION. The rows of spec/opcode_table.json, one constructor each (spec/30_encoding.md R100 to R104). -/

namespace Sys2Proof

/-- The six operations with the operands of their request formats (R101), the two reserved operation codes (R104)
and the three wire encodings (R102). Operands travel by value (R20, R35). -/
inductive Instr where
  /-- CRC.SPAN, format S. -/
  | crcSpan (span : List Byte)
  /-- ENC.INIT, format N. -/
  | encInit
  /-- ENC.CHUNK, format C. -/
  | encChunk (off : Word) (content : List Byte)
  /-- ENC.BLOB, format B. -/
  | encBlob (blob : List Byte)
  /-- VAL.INIT, format P. -/
  | valInit (count0 : Word)
  /-- VAL.CHUNK, format N. -/
  | valChunk
  /-- RESERVED.6. -/
  | reserved6
  /-- RESERVED.7. -/
  | reserved7
  /-- CHUNK.HEADER, the 16-bit header field on the wire (R90). -/
  | chunkHeader (id : BitVec 6) (len : BitVec 10)
  /-- CHUNK.START, the start marker byte on the wire (R81). -/
  | chunkStart
  /-- CHUNK.END, the end marker byte on the wire (R81). -/
  | chunkEnd
  deriving DecidableEq, Repr

/-- What a string of octets is read as. The table holds two encoding spaces that share bit patterns: operation
requests (R100) and the fields of a chunk on the wire (R102); the header and the markers are told apart by their
place in a chunk (R80). -/
inductive Space where
  | request
  | header
  | marker
  deriving DecidableEq, Repr

/-- Why octets are no instruction. -/
inductive DecodeError where
  /-- A request with no OPSEL octet. -/
  | noOpsel
  /-- An OPSEL octet above 7: OPSEL is a 3-bit value (R100). -/
  | opselTooWide
  /-- Fewer octets than a 32-bit operand needs (R101). -/
  | operandMissing
  /-- Octets after the last operand of the format (R101). -/
  | operandExtra
  /-- An ENC.BLOB operand of 2^32 bytes or more (R101). -/
  | blobTooLong
  /-- A header field that is not two bytes (R82). -/
  | headerSize
  /-- A marker field that is neither 0x02 nor 0x03 alone (R81, R107). -/
  | markerValue
  deriving DecidableEq, Repr

end Sys2Proof
end

