-- ==== Sys2Proof/WellFormed.lean ====
section
/-! DEFINITION. Which instructions the request formats admit (spec/30_encoding.md R101). -/

namespace Sys2Proof

/-- The largest size of an ENC.BLOB operand, exclusive: `0 ≤ size < 2^32` (R101, R146). -/
def blobLimit : Nat := 2 ^ 32

/-- The only bound R101 puts on an operand that its type does not already carry is the size of an ENC.BLOB
operand. An ENC.CHUNK content of any length is a request: out of range it is answered BadRequest (R142). -/
def Instr.wellFormed : Instr → Bool
  | .crcSpan _ => true
  | .encInit => true
  | .encChunk _ _ => true
  | .encBlob blob => decide (blob.length < blobLimit)
  | .valInit _ => true
  | .valChunk => true
  | .reserved6 => true
  | .reserved7 => true
  | .chunkHeader _ _ => true
  | .chunkStart => true
  | .chunkEnd => true

end Sys2Proof
end

