-- ==== Sys2Proof/Machine/Operands.lean ====
section
/-! DEFINITION. The operand forms of the request formats S, N, C, B and P (spec/30_encoding.md R101), read from and
written to the operand octets of a request. The spec gives the operands and leaves how they are handed over to the
platform (R60): the octets are the model's own, DESIGN CHOICE, log 3. A 32-bit operand is four octets, little-endian
as every field on the wire (R50); a byte sequence is the rest of the request. -/

namespace Sys2Proof.Machine

/-- A 32-bit operand and what follows it. -/
def readWord : List Byte → Except DecodeError (Word × List Byte)
  | b0 :: b1 :: b2 :: b3 :: rest => .ok (BitVec.ofNat 32 (unle [b0, b1, b2, b3]), rest)
  | _ => .error .operandMissing

/-- The octets of a 32-bit operand. -/
def writeWord (v : Word) : List Byte := le 4 v.toNat

/-- Format S: a byte sequence of any length. -/
def operandsS (bs : List Byte) : Except DecodeError (List Byte) := .ok bs

/-- Format N: nothing. -/
def operandsN (bs : List Byte) : Except DecodeError Unit :=
  match bs with
  | [] => .ok ()
  | _ :: _ => .error .operandExtra

/-- Format C: `off`, 32 bits, then `content`. -/
def operandsC (bs : List Byte) : Except DecodeError (Word × List Byte) := readWord bs

/-- Format B: a byte sequence of length below 2^32. -/
def operandsB (bs : List Byte) : Except DecodeError (List Byte) :=
  if bs.length < blobLimit then .ok bs else .error .blobTooLong

/-- Format P: `count0`, 32 bits, and nothing after it. -/
def operandsP (bs : List Byte) : Except DecodeError Word :=
  match readWord bs with
  | .ok (v, []) => .ok v
  | .ok (_, _ :: _) => .error .operandExtra
  | .error e => .error e

end Sys2Proof.Machine
end

