-- ==== Sys2Proof/Decode.lean ====
section
/-! DEFINITION. From octets to an instruction, and back (spec/30_encoding.md R81, R90, R91, R100, R101). Decoding is
total: octets that encode nothing are rejected by name. -/

namespace Sys2Proof

open Machine

/-- A request: the OPSEL octet (its low 3 bits are OPSEL, R100), then the operands of its format (R101; log 3). A
reserved OPSEL is decided before any operand is looked at (R229; log 23). -/
def decodeRequest : List Byte → Except DecodeError Instr
  | [] => .error .noOpsel
  | sel :: ops =>
    match sel.toNat with
    | 0 => (operandsS ops).map .crcSpan
    | 1 => (operandsN ops).map fun _ => .encInit
    | 2 => (operandsC ops).map fun oc => .encChunk oc.1 oc.2
    | 3 => (operandsB ops).map .encBlob
    | 4 => (operandsP ops).map .valInit
    | 5 => (operandsN ops).map fun _ => .valChunk
    | 6 => .ok .reserved6
    | 7 => .ok .reserved7
    | _ => .error .opselTooWide

/-- A header field on the wire: two bytes, little-endian, ID in bits 15:10 and LEN in bits 9:0 (R82, R91). -/
def decodeHeader : List Byte → Except DecodeError Instr
  | [b0, b1] =>
    let hdr := BitVec.ofNat 16 (unle [b0, b1])
    .ok (.chunkHeader (headerId hdr) (headerLen hdr))
  | _ => .error .headerSize

/-- A marker on the wire: one byte (R81). -/
def decodeMarker : List Byte → Except DecodeError Instr
  | [b] =>
    if b = startMark then .ok .chunkStart
    else if b = endMark then .ok .chunkEnd
    else .error .markerValue
  | _ => .error .markerValue

/-- The instruction that octets of a space encode. -/
def decode : Space → List Byte → Except DecodeError Instr
  | .request, bs => decodeRequest bs
  | .header, bs => decodeHeader bs
  | .marker, bs => decodeMarker bs

/-- The octets of an instruction, and the space they are read in (R81, R90, R100, R101). -/
def encode : Instr → Space × List Byte
  | .crcSpan span => (.request, 0 :: span)
  | .encInit => (.request, [1])
  | .encChunk off content => (.request, 2 :: (writeWord off ++ content))
  | .encBlob blob => (.request, 3 :: blob)
  | .valInit count0 => (.request, 4 :: writeWord count0)
  | .valChunk => (.request, [5])
  | .reserved6 => (.request, [6])
  | .reserved7 => (.request, [7])
  | .chunkHeader id len => (.header, le 2 (packHeader id len).toNat)
  | .chunkStart => (.marker, [startMark])
  | .chunkEnd => (.marker, [endMark])

/-- The operand octets a table word is completed with, all zero: an empty span, `off = 0` and one content byte,
a one-byte blob, `count0 = 0` (log 6). -/
def zeroOperands (sel : Nat) : List Byte :=
  match sel with
  | 2 => zeros 5
  | 3 => zeros 1
  | 4 => zeros 4
  | _ => []

/-- A word of spec/opcode_table.json, bit 0 the least significant, laid out as octets in its space: up to 8 bits a
request's OPSEL octet, 16 bits a header field. The table's two 8-bit marker rows share their bits with OPSEL 2 and 3,
and are read as those (log 6). -/
def tableWord (nbits w : Nat) : Space × List Byte :=
  if nbits = 16 then (.header, le 2 w)
  else if nbits ≤ 8 then (.request, BitVec.ofNat 8 w :: zeroOperands (w % 256))
  else (.request, [])

/-- What the decoder reads from a word of the opcode table (log 6). -/
def decodeTableWord (nbits w : Nat) : Option Instr :=
  match decode (tableWord nbits w).1 (tableWord nbits w).2 with
  | .ok i => some i
  | .error _ => none

end Sys2Proof
end

