-- ==== Sys2Proof/Machine/CrcEngine.lean ====
section
/-! DEFINITION. The CRC unit's function `crc32z` (spec/41_crc.md R120 to R124) and its table form (R130).
The loop is the customary reflected one, marked in the spec as general knowledge (G1, G2): PRESUMED, log 9. -/

namespace Sys2Proof.Machine

/-- One bit step (R122). -/
def crcBit (a : Word) : Word :=
  if a.getLsbD 0 then (a >>> 1) ^^^ crcPoly else a >>> 1

/-- `n` bit steps. -/
def crcBits : Nat → Word → Word
  | 0, a => a
  | n + 1, a => crcBits n (crcBit a)

/-- One byte step: the byte enters the low 8 bits, then 8 bit steps (R123). -/
def crcByte (a : Word) (b : Byte) : Word := crcBits 8 (a ^^^ b.setWidth 32)

/-- The byte steps of a span, in increasing index order, from an accumulator (R124, R129). -/
def crcFrom (a : Word) (span : List Byte) : Word := span.foldl crcByte a

/-- The checksum of a span: zero start, no final XOR (R124). -/
def crc32z (span : List Byte) : Word := crcFrom crcInit span

/-- `TAB[b] = crc_byte(0, b)` (R130). -/
def crcTable (b : Byte) : Word := crcByte 0 b

/-- The table form of a byte step, `TAB[(a xor b) and 0xFF] xor (a >> 8)` (R130). -/
def crcByteByTable (a : Word) (b : Byte) : Word :=
  crcTable ((a ^^^ b.setWidth 32).setWidth 8) ^^^ (a >>> 8)

end Sys2Proof.Machine
end

