-- ==== Sys2Proof/Machine/Chunk.lean ====
section
/-! DEFINITION. The chunk: building a frame as ENC.CHUNK does (spec/42_encoder.md R141) and reading the fields of
one as VAL.CHUNK does (spec/43_validator.md R161). Every offset and size is a constant of `Layout` (R6). -/

namespace Sys2Proof.Machine

/-- The reduction of a checksum to its stored field, `c mod 2^(8 × CKSUM_BYTES)` (R94, R151). -/
def reduceChecksum (L : Layout) (c : Word) : Nat := c.toNat % 2 ^ (8 * L.cksumBytes)

/-- The offset in a frame of the first content byte: 7 in both profiles (R51). -/
def contentOff (L : Layout) : Nat := L.dataOff + L.prefixBytes

/-- The length the encoder writes: content plus the 4 prefix bytes (R92, conflict C2). -/
def encodedLen (L : Layout) (content : List Byte) : Nat := content.length + L.prefixBytes

/-- The frame ENC.CHUNK builds, one line per write of R141. -/
def buildFrame (L : Layout) (id : BitVec 6) (off : Word) (content : List Byte) : List Byte :=
  let len := encodedLen L content
  let F := zeros L.chunkSize
  let F := writeAt F L.startOff [startMark]
  let F := memWrite F L.hdrOff 2 (packHeader id (BitVec.ofNat 10 len)).toNat
  let F := memWrite F L.dataOff 4 off.toNat
  let F := writeAt F (contentOff L) content
  let c := crc32z (slice F L.dataOff len)
  let F := memWrite F L.ckOff L.cksumBytes (reduceChecksum L c)
  writeAt F L.endOff [endMark]

/-- Both markers are right (R163). -/
def frameMarkersOk (L : Layout) (F : List Byte) : Bool :=
  byteAt F L.startOff == startMark && byteAt F L.endOff == endMark

/-- The 16-bit header of a frame (R161). -/
def frameHeader (L : Layout) (F : List Byte) : BitVec 16 := BitVec.ofNat 16 (memRead F L.hdrOff 2)

/-- LEN of a frame (R91). -/
def frameLen (L : Layout) (F : List Byte) : BitVec 10 := headerLen (frameHeader L F)

/-- ID of a frame (R91). -/
def frameId (L : Layout) (F : List Byte) : BitVec 6 := headerId (frameHeader L F)

/-- LEN holds at least the prefix and at most the data region (R105, R164). -/
def frameLenOk (L : Layout) (F : List Byte) : Bool :=
  decide (L.prefixBytes ≤ (frameLen L F).toNat) && decide ((frameLen L F).toNat ≤ L.dataCap)

/-- The span a frame's checksum covers, `F[DATA_OFF .. DATA_OFF+LEN)` (R165). -/
def frameSpan (L : Layout) (F : List Byte) : List Byte := slice F L.dataOff (frameLen L F).toNat

/-- The stored checksum field, read little-endian (R94). -/
def frameChecksum (L : Layout) (F : List Byte) : Nat := memRead F L.ckOff L.cksumBytes

/-- The recomputed checksum, reduced, agrees with the stored field (R165). -/
def frameChecksumOk (L : Layout) (F : List Byte) : Bool :=
  reduceChecksum L (crc32z (frameSpan L F)) == frameChecksum L F

/-- The offset prefix of a frame (R93, R166). -/
def frameOffset (L : Layout) (F : List Byte) : Word := BitVec.ofNat 32 (memRead F L.dataOff 4)

/-- The number of content bytes of a frame, `LEN - 4` (R95, R167). -/
def frameContentLen (L : Layout) (F : List Byte) : Nat := (frameLen L F).toNat - L.prefixBytes

/-- The content bytes of a frame, `F[7 .. 3+LEN)` (R167). -/
def frameContent (L : Layout) (F : List Byte) : List Byte := slice F (contentOff L) (frameContentLen L F)

end Sys2Proof.Machine
end

