-- ==== Sys2Proof/Machine/State.lean ====
section
/-! DEFINITION. The state of the block and of the streams around it (spec/10_state.md R22 to R39), the completion it
hands to the host (spec/30_encoding.md R101, spec/60_exceptions.md R220), and what the host does next (R61). -/

namespace Sys2Proof.Machine

/-- The result codes of R220. -/
inductive ResultCode where
  | ok
  | badMarker
  | checksumMismatch
  | truncatedInput
  | badLength
  | badRequest
  | halted
  | badOp
  deriving DecidableEq, Repr

/-- The result values a completion carries (R101, R220). The spec gives the two counts no width: log 22. -/
inductive ResultValue where
  | none
  | crc (c : Word)
  | chunks (n : Nat)
  | bytesWritten (n : Nat)
  deriving DecidableEq, Repr

/-- A completion: a result code and the result values of the format (R101). -/
structure Completion where
  code  : ResultCode
  value : ResultValue
  deriving DecidableEq, Repr

/-- One act of the host, the only agent (R61). -/
inductive HostEvent where
  /-- Issue octets: a request (R101), or a field of a chunk put on the receive wire (log 5). -/
  | issue (space : Space) (octets : List Byte)
  /-- Reset, between two operations (R250). -/
  | reset
  /-- Append bytes to SINK, for example the descriptors (R32, R197). -/
  | appendSink (bytes : List Byte)
  /-- Supply bytes to SRC (R33). -/
  | supplySrc (bytes : List Byte)
  /-- Consume bytes of SRC, for example the descriptors (R33, R205). -/
  | readSrc (n : Nat)
  /-- Carry the bytes of SINK from a position on to SRC: the channel (R32, R60, R68; log 16). -/
  | carry (start : Nat)
  deriving DecidableEq, Repr

/-- Why the machine stops with a fault. -/
inductive Fault where
  /-- The HOST's own read of SRC runs past its end, "an unrecoverable condition" (R205, R210). Raised by the event
  `readSrc` only, never by an operation of the block. Safe: log 13. -/
  | hostReadPastEnd
  deriving DecidableEq, Repr

/-- Why a step has no meaning. -/
inductive Refusal where
  /-- Rejected by name: no meaning written yet. Raised by exec's arms only. Safe. -/
  | notModelled (mnemonic : String)
  /-- The octets issued are no request and no wire field. Raised by step. Safe: log 12. -/
  | undecodable (e : DecodeError)
  /-- An ENC.BLOB operand of 2^32 bytes or more, which R101 does not admit. Raised by ENC.BLOB. Safe: log 11. -/
  | blobTooLong
  deriving DecidableEq, Repr

/-- Everything the spec gives the machine, with the model's own three fields said so. -/
structure State where
  /-- The configuration (R6, R8, R38): no step changes it. The model's own place for it, log 1. -/
  config     : Config
  /-- TX_ID (R23). -/
  txId       : BitVec 6
  /-- RX_COUNT (R24). -/
  rxCount    : Word
  /-- RX_OFFSET (R25). -/
  rxOffset   : Word
  /-- RX_ID (R26). -/
  rxId       : BitVec 6
  /-- RX_LEN (R26). -/
  rxLen      : BitVec 10
  /-- RX_STATUS (R27). -/
  rxStatus   : BitVec 3
  /-- RX_STICKY (R28). -/
  rxSticky   : BitVec 5
  /-- RX_HALT (R29). -/
  rxHalt     : BitVec 1
  /-- SINK, every byte appended so far (R32). -/
  sink       : List Byte
  /-- SRC's unconsumed bytes (R14, R33). -/
  src        : List Byte
  /-- SRC's consumption point: how many bytes have been consumed (R33; log 8). -/
  srcPos     : Nat
  /-- RBUF (R34). -/
  rbuf       : List Byte
  /-- The completion of the last request (R101, R220). The model's own: log 4. -/
  completion : Option Completion
  /-- What the host does next, oldest first. The model's own: log 2. -/
  script     : List HostEvent
  deriving DecidableEq, Repr

/-- The layout the block is configured with (R6). -/
def State.layout (s : State) : Layout := s.config.layout

/-- The block right after reset under a configuration: R39's registers; the streams empty (log 7). -/
def State.resetWith (c : Config) : State :=
  { config := c, txId := c.msgIdReset, rxCount := 0, rxOffset := 0, rxId := 0, rxLen := 0, rxStatus := 0
    rxSticky := 0, rxHalt := 0, sink := [], src := [], srcPos := 0, rbuf := [], completion := none, script := [] }

/-- The machine right after reset, in the default configuration (R6, R8, R39). -/
def State.reset : State := State.resetWith Config.default

end Sys2Proof.Machine
end

