-- ==== Sys2Proof/Machine/Flags.lean ====
section
/-! DEFINITION. The result codes' numbers (spec/60_exceptions.md R220) and the status state of the block, RX_STATUS,
RX_STICKY and RX_HALT (spec/10_state.md R27 to R30). There are no carry, zero, overflow or sign flags (R30). -/

namespace Sys2Proof.Machine

/-- The numbers of the result codes (R220). -/
def ResultCode.toBits : ResultCode → BitVec 3
  | .ok => 0
  | .badMarker => 1
  | .checksumMismatch => 2
  | .truncatedInput => 3
  | .badLength => 4
  | .badRequest => 5
  | .halted => 6
  | .badOp => 7

/-- `RX_STICKY[k] <- 1` for the bit of a result code (R28). -/
def stickyWith (sticky : BitVec 5) (c : ResultCode) : BitVec 5 := sticky ||| (1#5 <<< c.toBits.toNat)

/-- `fail(k)`: RX_STATUS becomes the code and its sticky bit is set (R161). -/
def State.fail (c : ResultCode) (s : State) : State :=
  { s with rxStatus := c.toBits, rxSticky := stickyWith s.rxSticky c }

/-- RX_HALT becomes 1 (R29, R162). -/
def State.halt (s : State) : State := { s with rxHalt := 1 }

end Sys2Proof.Machine
end

