-- ==== Sys2Proof/Machine/Ops.lean ====
section
/-! DEFINITION. The named operations over the state: completing and raising (spec/00_scope.md R15, spec/60_exceptions.md
R220, R231), the streams (R14, R32 to R34), the registers an INIT writes, reset (spec/70_reset_and_hazards.md R250). -/

namespace Sys2Proof.Machine

/-- `return Ok(v)` (R15). -/
def State.succeed (v : ResultValue) (s : State) : State :=
  { s with completion := some { code := .ok, value := v } }

/-- `raise <Kind>`: the operation ends with the error kind and no value; control goes nowhere (R15, R220, R231). -/
def State.raise (c : ResultCode) (s : State) : State :=
  { s with completion := some { code := c, value := .none } }

/-- `fail(k) ; raise <Kind>`, the way VAL.CHUNK reports a frame error (R161). -/
def State.failRaise (c : ResultCode) (s : State) : State := (s.fail c).raise c

/-- `append(SINK, S)` (R14, R32). -/
def State.appendSink (bytes : List Byte) (s : State) : State := { s with sink := s.sink ++ bytes }

/-- `append(RBUF, S)` (R14, R34). -/
def State.appendRbuf (bytes : List Byte) (s : State) : State := { s with rbuf := s.rbuf ++ bytes }

/-- The environment supplies bytes at the end of SRC (R33). -/
def State.supplySrc (bytes : List Byte) (s : State) : State := { s with src := s.src ++ bytes }

/-- `avail(SRC)` (R14). -/
def State.availSrc (s : State) : Nat := s.src.length

/-- The bytes `take(SRC, n)` returns (R14). -/
def State.headSrc (n : Nat) (s : State) : List Byte := s.src.take n

/-- What `take(SRC, n)` leaves; used only where `n` bytes are available (R14). -/
def State.dropSrc (n : Nat) (s : State) : State := { s with src := s.src.drop n, srcPos := s.srcPos + n }

/-- `TX_ID <- v`. -/
def State.setTxId (v : BitVec 6) (s : State) : State := { s with txId := v }

/-- All seven RX registers, RX_COUNT from an origin and the rest 0 (R160). -/
def State.presetRx (count0 : Word) (s : State) : State :=
  { s with rxCount := count0, rxOffset := 0, rxId := 0, rxLen := 0, rxStatus := 0, rxSticky := 0, rxHalt := 0 }

/-- The registers an accepted chunk writes (R161, R166, R167). -/
def State.acceptRx (off : Word) (id : BitVec 6) (len : BitVec 10) (n : Nat) (s : State) : State :=
  { s with rxOffset := off, rxId := id, rxLen := len, rxCount := s.rxCount + BitVec.ofNat 32 n, rxStatus := 0 }

/-- The body of ENC.CHUNK past its range check: the frame to SINK, TX_ID up by one modulo 64 (R141, R144). -/
def State.emitChunk (off : Word) (content : List Byte) (s : State) : State :=
  (s.setTxId (s.txId + 1)).appendSink (buildFrame s.layout s.txId off content)

/-- The reset event: every register to R39's value, SINK, SRC and RBUF untouched (R250). The configuration and the
rest of the host's script stand, and no completion is pending (log 15). -/
def State.resetBlock (s : State) : State :=
  { (s.setTxId s.config.msgIdReset).presetRx 0 with completion := none }

end Sys2Proof.Machine
end

