-- ==== Sys2Proof/Machine/Crc.lean ====
section
/-! DEFINITION. The CRC unit's operation (spec/41_crc.md R125). -/

namespace Sys2Proof.Machine

/-- CRC.SPAN: `return Ok(crc32z(span))`; no register, no stream (R125). -/
def execCrcSpan (span : List Byte) (s : State) : Host.Outcome State Fault Refusal :=
  .next (s.succeed (.crc (crc32z span)))

end Sys2Proof.Machine
end

