-- ==== Sys2Proof/Machine/Encoder.lean ====
section
/-! DEFINITION. The ENC unit's operations (spec/42_encoder.md R140 to R152). -/

namespace Sys2Proof.Machine

/-- ENC.INIT: `TX_ID <- MSGID_RESET; return Ok` (R140). -/
def execEncInit (s : State) : Host.Outcome State Fault Refusal :=
  .next ((s.setTxId s.config.msgIdReset).succeed .none)

/-- ENC.CHUNK: BadRequest when the content is empty or above CONTENT_CAP, with nothing changed (R142); otherwise one
frame on SINK and TX_ID advanced (R141). -/
def execEncChunk (off : Word) (content : List Byte) (s : State) : Host.Outcome State Fault Refusal :=
  if content.length < 1 ∨ s.layout.contentCap < content.length then .next (s.raise .badRequest)
  else .next ((s.emitChunk off content).succeed .none)

/-- ENC.BLOB's loop from a cursor (R146). Every pass takes at least one byte, so `fuel` passes reach the end of a blob
of at most `fuel` bytes. Each pass is ENC.CHUNK's body: `1 ≤ n ≤ CONTENT_CAP`, so it never answers BadRequest. -/
def blobLoop (blob : List Byte) : (fuel cursor chunks : Nat) → State → State × Nat
  | 0, _, chunks, s => (s, chunks)
  | fuel + 1, cursor, chunks, s =>
    if cursor < blob.length then
      let n := min s.layout.contentCap (blob.length - cursor)
      blobLoop blob fuel (cursor + n) (chunks + 1)
        (s.emitChunk (BitVec.ofNat 32 cursor) (slice blob cursor n))
    else (s, chunks)

/-- ENC.BLOB: the sub-binary's chunks in order, then `Ok(chunks)` (R146). An operand of 2^32 bytes or more is none
that R101 admits, and is refused (log 11). -/
def execEncBlob (blob : List Byte) (s : State) : Host.Outcome State Fault Refusal :=
  if blob.length < blobLimit then
    .next ((blobLoop blob blob.length 0 0 s).1.succeed (.chunks (blobLoop blob blob.length 0 0 s).2))
  else .refused .blobTooLong

end Sys2Proof.Machine
end

