-- ==== Sys2Proof/Machine/Reserved.lean ====
section
/-! DEFINITION. The reserved operation codes (spec/30_encoding.md R104). -/

namespace Sys2Proof.Machine

/-- OPSEL 6: BadOp, no register and no stream changed (R104). -/
def execReserved6 (s : State) : Host.Outcome State Fault Refusal := .next (s.raise .badOp)

/-- OPSEL 7: BadOp, no register and no stream changed (R104). -/
def execReserved7 (s : State) : Host.Outcome State Fault Refusal := .next (s.raise .badOp)

end Sys2Proof.Machine
end

