-- ==== Sys2Proof/Machine/Validator.lean ====
section
/-! DEFINITION. The VAL unit's operations (spec/43_validator.md R160 to R169). -/

namespace Sys2Proof.Machine

/-- VAL.INIT: RX_COUNT from `count0`, the other RX registers 0 (R160). -/
def execValInit (count0 : Word) (s : State) : Host.Outcome State Fault Refusal :=
  .next ((s.presetRx count0).succeed .none)

/-- An accepted chunk: the three informational registers, the content to RBUF, the count (R166, R167). -/
def State.acceptFrame (F : List Byte) (s : State) : State :=
  let n := frameContentLen s.layout F
  ((s.acceptRx (frameOffset s.layout F) (frameId s.layout F) (frameLen s.layout F) n).appendRbuf
    (frameContent s.layout F)).succeed (.bytesWritten n)

/-- The checks on a frame already taken from SRC, in R169's order: markers (R163), length (R164), checksum (R165). -/
def State.validateFrame (F : List Byte) (s : State) : State :=
  if frameMarkersOk s.layout F = false then s.failRaise .badMarker
  else if frameLenOk s.layout F = false then s.failRaise .badLength
  else if frameChecksumOk s.layout F = false then s.failRaise .checksumMismatch
  else s.acceptFrame F

/-- VAL.CHUNK: Halted with nothing changed (R168), TruncatedInput with nothing taken (R162), or one frame taken from
SRC and validated (R161). -/
def execValChunk (s : State) : Host.Outcome State Fault Refusal :=
  if s.rxHalt = 1 then .next (s.raise .halted)
  else if s.availSrc < s.layout.chunkSize then .next (s.halt.failRaise .truncatedInput)
  else .next ((s.dropSrc s.layout.chunkSize).validateFrame (s.headSrc s.layout.chunkSize))

end Sys2Proof.Machine
end

