-- ==== Sys2Proof/Machine/Wire.lean ====
section
/-! DEFINITION. The wire encodings of the opcode table (spec/30_encoding.md R81, R82, R90, R102). They are fields of a
chunk, no operations: the block does nothing by itself (R61), and the bytes of a field exist on a stream only. The model
reads such a row as the HOST putting that field at the end of SRC, whose contents "the host supplies" (R33):
DESIGN CHOICE, log 5. -/

namespace Sys2Proof.Machine

/-- CHUNK.HEADER: the 16-bit header, little-endian (R51, R90). -/
def execChunkHeader (id : BitVec 6) (len : BitVec 10) (s : State) : Host.Outcome State Fault Refusal :=
  .next (s.supplySrc (le 2 (packHeader id len).toNat))

/-- CHUNK.START: the byte 0x02 (R81). -/
def execChunkStart (s : State) : Host.Outcome State Fault Refusal := .next (s.supplySrc [startMark])

/-- CHUNK.END: the byte 0x03 (R81). -/
def execChunkEnd (s : State) : Host.Outcome State Fault Refusal := .next (s.supplySrc [endMark])

end Sys2Proof.Machine
end

