-- ==== Sys2Proof/Machine/Dispatch.lean ====
section
/-! DEFINITION. One arm per instruction (spec/30_encoding.md R100, R102, R104). -/

namespace Sys2Proof.Machine

def exec (i : Instr) (s : State) : Host.Outcome State Fault Refusal :=
  match i with
  | .crcSpan span => Sys2Proof.Machine.execCrcSpan span s
  | .encInit => Sys2Proof.Machine.execEncInit s
  | .encChunk off content => Sys2Proof.Machine.execEncChunk off content s
  | .encBlob blob => Sys2Proof.Machine.execEncBlob blob s
  | .valInit count0 => Sys2Proof.Machine.execValInit count0 s
  | .valChunk => Sys2Proof.Machine.execValChunk s
  | .reserved6 => Sys2Proof.Machine.execReserved6 s
  | .reserved7 => Sys2Proof.Machine.execReserved7 s
  | .chunkHeader id len => Sys2Proof.Machine.execChunkHeader id len s
  | .chunkStart => Sys2Proof.Machine.execChunkStart s
  | .chunkEnd => Sys2Proof.Machine.execChunkEnd s

end Sys2Proof.Machine
end

