-- ==== Sys2Proof/Machine/HostEvents.lean ====
section
/-! DEFINITION. What one act of the host does (spec/10_state.md R32, R33; spec/20_memory.md R60, R61;
spec/70_reset_and_hazards.md R250). -/

namespace Sys2Proof.Machine

/-- Issued octets run the instruction they encode; octets that encode none are refused (log 12). -/
def issueOctets (space : Space) (octets : List Byte) (s : State) : Host.Outcome State Fault Refusal :=
  match decode space octets with
  | .ok i => exec i s
  | .error e => .refused (.undecodable e)

/-- The host consumes bytes of SRC itself (R33); past the end it stops (R205; log 13). -/
def hostReadSrc (n : Nat) (s : State) : Host.Outcome State Fault Refusal :=
  if n ≤ s.availSrc then .next (s.dropSrc n) else .fault .hostReadPastEnd

/-- One act of the host. -/
def hostAct (e : HostEvent) (s : State) : Host.Outcome State Fault Refusal :=
  match e with
  | .issue space octets => issueOctets space octets s
  | .reset => .next s.resetBlock
  | .appendSink bytes => .next (s.appendSink bytes)
  | .supplySrc bytes => .next (s.supplySrc bytes)
  | .readSrc n => hostReadSrc n s
  | .carry start => .next (s.supplySrc (s.sink.drop start))

/-- The state with the oldest act of the script taken off it. -/
def State.advance (s : State) : State := { s with script := s.script.tail }

end Sys2Proof.Machine
end

