-- ==== Sys2Proof/Machine/Step.lean ====
section
/-! DEFINITION. One step: the host's next act, whole (spec/20_memory.md R56, R61). -/

namespace Sys2Proof.Machine

/-- The oldest act of the script happens, atomically (R56, R61). A host with nothing to do leaves the block as it is:
"The three units never act unless an operation names them" (R61; log 2). -/
def step (s : State) : Host.Outcome State Fault Refusal :=
  match s.script with
  | [] => .next s
  | e :: _ => hostAct e s.advance

/-- The state whose very next step issues a word of the opcode table: the script is where the machine fetches
(log 2, log 6). -/
def State.withFetchWord (s : State) (nbits w : Nat) : State :=
  { s with script := .issue (tableWord nbits w).1 (tableWord nbits w).2 :: s.script }

end Sys2Proof.Machine
end

