-- ==== Sys2Proof/Machine/Descriptors.lean ====
section
/-! DEFINITION. The environment's descriptors and its Header Builder (spec/44_host_protocol.md R190 to R196). Host
data, no state of the block (R38). The parameters the spec leaves open are fields of a record that every procedure of
the host takes, so a statement about them holds for every value (R9; log 18). -/

namespace Sys2Proof.Machine

/-- HOST_CHUNK_ERROR_POLICY (R206). -/
inductive ErrorPolicy where
  | abort
  | continue
  deriving DecidableEq, Repr

/-- HOST_PAD_POLICY (R209). -/
inductive PadPolicy where
  | none
  | receiverInsertsZeros
  deriving DecidableEq, Repr

/-- RESERVED_FILL as a host writes it when nothing else is said (R195). -/
def reservedFillDefault : Byte := 0x00

/-- The parameters of the environment (R9, R206, R209); RESERVED_FILL alone has a default (R195). -/
structure HostParams where
  mainWatermark : Word
  subWatermark  : Nat → Word
  maxSubCount   : Nat
  reservedFill  : Byte := reservedFillDefault
  errorPolicy   : ErrorPolicy
  padPolicy     : PadPolicy

/-- MainDescriptor (R190); the reserved bytes have no reader (R195). -/
structure MainDescriptor where
  watermark : Word
  subCount  : Word
  deriving DecidableEq, Repr

/-- SubDescriptor (R192). -/
structure SubDescriptor where
  watermark   : Word
  startOffset : Word
  size        : Word
  checksum    : Word
  deriving DecidableEq, Repr

/-- The sizes of the descriptors in bytes (R190, R192). -/
def mainDescriptorSize : Nat := 16

/-- See `mainDescriptorSize`. -/
def subDescriptorSize : Nat := 64

/-- The descriptor bytes of a transfer, `16 + 64 × count`: where the first sub-binary starts (R194). -/
def descriptorBytes (count : Nat) : Nat := mainDescriptorSize + subDescriptorSize * count

/-- The 16 bytes of a MainDescriptor (R190). -/
def MainDescriptor.encode (fill : Byte) (d : MainDescriptor) : List Byte :=
  writeWord d.watermark ++ writeWord d.subCount ++ List.replicate 8 fill

/-- The 64 bytes of a SubDescriptor (R192). -/
def SubDescriptor.encode (fill : Byte) (d : SubDescriptor) : List Byte :=
  writeWord d.watermark ++ writeWord d.startOffset ++ writeWord d.size ++ writeWord d.checksum ++
    List.replicate 48 fill

/-- A 32-bit field of a descriptor at a byte offset (R190, R192). -/
def fieldAt (bs : List Byte) (off : Nat) : Word := BitVec.ofNat 32 (memRead bs off 4)

/-- The fields of a MainDescriptor; its reserved bytes are ignored (R195). -/
def MainDescriptor.decode (bs : List Byte) : MainDescriptor :=
  { watermark := fieldAt bs 0, subCount := fieldAt bs 4 }

/-- The fields of a SubDescriptor; its reserved bytes are ignored (R195). -/
def SubDescriptor.decode (bs : List Byte) : SubDescriptor :=
  { watermark := fieldAt bs 0, startOffset := fieldAt bs 4, size := fieldAt bs 8, checksum := fieldAt bs 12 }

/-- `count` SubDescriptors in a row. -/
def decodeSubs : (count : Nat) → List Byte → List SubDescriptor
  | 0, _ => []
  | count + 1, bs =>
    SubDescriptor.decode (bs.take subDescriptorSize) :: decodeSubs count (bs.drop subDescriptorSize)

/-- `align4(n) = (n + 3) − ((n + 3) mod 4)` (R10). -/
def align4 (n : Nat) : Nat := (n + 3) - (n + 3) % 4

/-- The loop of the Header Builder from an index and a cursor (R193). A cursor or a size of 2^32 or more, which R196
calls no well-formed transfer, is kept modulo 2^32 in its field: DESIGN CHOICE, log 24. -/
def buildSubs (P : HostParams) : (i cur : Nat) → List (List Byte) → List SubDescriptor
  | _, _, [] => []
  | i, cur, blob :: blobs =>
    { watermark := P.subWatermark i, startOffset := BitVec.ofNat 32 cur, size := BitVec.ofNat 32 blob.length
      checksum := crc32z blob } :: buildSubs P (i + 1) (cur + align4 blob.length) blobs

/-- The Header Builder (R193). A count of 2^32 or more is kept modulo 2^32: DESIGN CHOICE, log 24. -/
def buildDescriptors (P : HostParams) (blobs : List (List Byte)) : MainDescriptor × List SubDescriptor :=
  ({ watermark := P.mainWatermark, subCount := BitVec.ofNat 32 blobs.length },
    buildSubs P 0 (descriptorBytes blobs.length) blobs)

/-- The last end offset, `start_offset + size`, of sub-binaries laid out from a cursor: the cursor is rounded up
between two of them and not after the last (R193, R205). With none it is the cursor. -/
def endFrom : (cur : Nat) → List (List Byte) → Nat
  | cur, [] => cur
  | cur, [blob] => cur + blob.length
  | cur, blob :: next :: blobs => endFrom (cur + align4 blob.length) (next :: blobs)

/-- The last end offset of a transfer, computed without bound: the transfer is well formed only if it is below 2^32
(R196). -/
def transferEnd (blobs : List (List Byte)) : Nat := endFrom (descriptorBytes blobs.length) blobs

end Sys2Proof.Machine
end

