-- ==== Sys2Proof/Machine/HostProtocol.lean ====
section
/-! DEFINITION. The environment's Transmitter, receive loop and Binary Verifier (spec/44_host_protocol.md R197, R205 to
R210; spec/70_reset_and_hazards.md R257, R258). They are no part of the block: functions that issue its operations. -/

namespace Sys2Proof.Machine

/-- The octets of an instruction, issued. -/
def issueInstr (i : Instr) : HostEvent := .issue (encode i).1 (encode i).2

/-- What the sending host does, in order: one CRC.SPAN per sub-binary for `build`, ENC.INIT, the descriptors to SINK,
one ENC.BLOB per sub-binary (R193, R197, R257). -/
def senderScript (P : HostParams) (blobs : List (List Byte)) : List HostEvent :=
  blobs.map (fun blob => issueInstr (.crcSpan blob)) ++
  [issueInstr .encInit, .appendSink ((buildDescriptors P blobs).1.encode P.reservedFill)] ++
  (buildDescriptors P blobs).2.map (fun d => .appendSink (d.encode P.reservedFill)) ++
  blobs.map (fun blob => issueInstr (.encBlob blob))

/-- How a transfer ends for the receiving host (R205, R206, R210). -/
inductive HostResult where
  | success
  | truncatedInput
  | tooManySubBinaries
  | chunkError (c : ResultCode)
  | checksumMismatch (index : Nat)
  deriving DecidableEq, Repr

/-- What the receiving host has at the end of a transfer: how it ended, and what RX_STICKY showed when the host looked
at it, after the receive loop and before the verifier (R258). A transfer that ends before that has no look: log 19. -/
structure HostReport where
  result : HostResult
  sticky : Option (BitVec 5)
  deriving DecidableEq, Repr

/-- A transfer that ends before the host looks at RX_STICKY. -/
def HostResult.early (r : HostResult) : HostReport := { result := r, sticky := none }

/-- The state an operation leaves; the operations the host's procedures issue always complete. -/
def runOp (i : Instr) (s : State) : State :=
  match exec i s with
  | .next t => t
  | .fault _ => s
  | .refused _ => s

/-- The result code of the last operation. -/
def lastCode (s : State) : ResultCode :=
  match s.completion with
  | some c => c.code
  | none => .ok

/-- The receive loop: VAL.CHUNK while the count, plus the pad bytes the host has counted, is below a target (R205,
R209). After a chunk error the policy decides (R206). Every pass takes CHUNK_SIZE bytes from SRC or ends the loop, so
`fuel` above the number of bytes in SRC is never used up (log 19). -/
def receiveLoop (P : HostParams) (pads target : Nat) : (fuel : Nat) → State → Option HostResult × State
  | 0, s => (some .truncatedInput, s)
  | fuel + 1, s =>
    if s.rxCount.toNat + pads < target then
      let t := runOp .valChunk s
      match lastCode t with
      | .ok => receiveLoop P pads target fuel t
      | .truncatedInput => (some .truncatedInput, t)
      | .halted => (some .truncatedInput, t)
      | c =>
        match P.errorPolicy with
        | .abort => (some (.chunkError c), t)
        | .continue => receiveLoop P pads target fuel t
    else (none, s)

/-- Enough fuel for `receiveLoop` from a state. -/
def receiveFuel (s : State) : Nat := s.availSrc + 1

/-- The end offset of a sub-binary, `start_offset + size` (R205), as a number without bound (log 24). -/
def SubDescriptor.endOffset (d : SubDescriptor) : Nat := d.startOffset.toNat + d.size.toNat

/-- HOST_PAD_POLICY receiver_inserts_zeros: after the last chunk of each sub-binary the host appends the align4 gap to
its copy of the stream and counts it (R209; log 20). -/
def receivePadded (P : HostParams) :
    List SubDescriptor → (pads : Nat) → (copy : List Byte) → State → Option HostResult × State × List Byte
  | [], _, copy, s => (none, s, copy)
  | d :: ds, pads, copy, s =>
    match receiveLoop P pads d.endOffset (receiveFuel s) s with
    | (none, t) =>
      let gap := align4 d.size.toNat - d.size.toNat
      receivePadded P ds (pads + gap) (copy ++ t.rbuf.drop s.rbuf.length ++ zeros gap) t
    | (some r, t) => (some r, t, copy)

/-- The receive loop under the host's pad policy, and the host's copy of the logical stream past the descriptors
(R205, R207, R209). With no sub-binary there is nothing to wait for (log 19). Under either policy the copy starts with
what RBUF holds when the loop begins, since R207's positions are those of RBUF: DESIGN CHOICE where
receiver_inserts_zeros meets an RBUF that is not empty, log 25. -/
def receiveChunks (P : HostParams) (subs : List SubDescriptor) (s : State) : Option HostResult × State × List Byte :=
  match P.padPolicy with
  | .none =>
    match subs.getLast? with
    | none => (none, s, s.rbuf)
    | some d =>
      let r := receiveLoop P 0 d.endOffset (receiveFuel s) s
      (r.1, r.2, r.2.rbuf)
  | .receiverInsertsZeros => receivePadded P subs 0 s.rbuf s

/-- The Binary Verifier from an index: `size` bytes at each start offset, where position `p` of the logical stream is
byte `p - base` of the copy (R207, R208). A read that leaves the copy ends in TruncatedInput (log 19). -/
def verifyFrom (base : Nat) (copy : List Byte) : (index : Nat) → List SubDescriptor → HostResult
  | _, [] => .success
  | index, d :: ds =>
    if base ≤ d.startOffset.toNat ∧ d.endOffset - base ≤ copy.length then
      if crc32z (slice copy (d.startOffset.toNat - base) d.size.toNat) = d.checksum then
        verifyFrom base copy (index + 1) ds
      else .checksumMismatch index
    else .truncatedInput

/-- The Binary Verifier (R208). -/
def verifyAll (copy : List Byte) (subs : List SubDescriptor) : HostResult :=
  verifyFrom (descriptorBytes subs.length) copy 0 subs

/-- The receiving host past the descriptors: VAL.INIT with the origin `16 + 64 × count`, the receive loop, a look at
RX_STICKY, the verifier (R205, R258). What RX_STICKY shows is reported and does not change what the verifier says (log
19). An origin of 2^32 or more is passed modulo 2^32: DESIGN CHOICE, log 24. -/
def receiveAndVerify (P : HostParams) (subs : List SubDescriptor) (s : State) : HostReport × State :=
  match receiveChunks P subs (runOp (.valInit (BitVec.ofNat 32 (descriptorBytes subs.length))) s) with
  | (some r, t, _) => (r.early, t)
  | (none, t, copy) => ({ result := verifyAll copy subs, sticky := some t.rxSticky }, t)

/-- The receiving host: read the MainDescriptor, check the count, read the SubDescriptors, receive and verify (R196,
R205, R258). -/
def receiveTransfer (P : HostParams) (s : State) : HostReport × State :=
  if s.availSrc < mainDescriptorSize then (HostResult.truncatedInput.early, s)
  else
    let count := (MainDescriptor.decode (s.headSrc mainDescriptorSize)).subCount.toNat
    let t := s.dropSrc mainDescriptorSize
    if P.maxSubCount < count then (HostResult.tooManySubBinaries.early, t)
    else if t.availSrc < subDescriptorSize * count then (HostResult.truncatedInput.early, t)
    else
      receiveAndVerify P (decodeSubs count (t.headSrc (subDescriptorSize * count)))
        (t.dropSrc (subDescriptorSize * count))

end Sys2Proof.Machine
end

