-- ==== Sys2Proof/Safety.lean ====
section
/-! DEFINITION. The terms the statements use: many steps, a chunk as its fields, what holds of every state a block can
be in, and what a clean transfer is. -/

namespace Sys2Proof.Machine

/-- `n` steps, up to the first fault or refusal. -/
def runSteps : (n : Nat) → State → Host.Outcome State Fault Refusal
  | 0, s => .next s
  | n + 1, s =>
    match step s with
    | .next t => runSteps n t
    | .fault f => .fault f
    | .refused r => .refused r

/-- A chunk as the concatenation of its fields in the order of R80's table: start marker, header, offset prefix,
content, zero padding, checksum of prefix and content, end marker. -/
def chunkBytes (L : Layout) (id : BitVec 6) (off : Word) (content : List Byte) : List Byte :=
  [startMark] ++ le 2 (packHeader id (BitVec.ofNat 10 (content.length + 4))).toNat ++ le 4 off.toNat ++ content ++
    zeros (L.dataCap - (content.length + 4)) ++
    le L.cksumBytes ((crc32z (le 4 off.toNat ++ content)).toNat % 2 ^ (8 * L.cksumBytes)) ++ [endMark]

/-- The number of chunks of a sub-binary, `ceil(size / CONTENT_CAP)` (R95, R147). -/
def chunkCount (L : Layout) (size : Nat) : Nat := (size + (L.contentCap - 1)) / L.contentCap

/-- Content of chunk `k` of a sub-binary: at most CONTENT_CAP bytes from `k × CONTENT_CAP` (R95, R147). -/
def chunkContent (L : Layout) (blob : List Byte) (k : Nat) : List Byte := slice blob (k * L.contentCap) L.contentCap

/-- Chunk `k` of a sub-binary whose first chunk carries `id` (R95, R144, R147). -/
def chunkOfBlob (L : Layout) (id : BitVec 6) (blob : List Byte) (k : Nat) : List Byte :=
  chunkBytes L (id + BitVec.ofNat 6 k) (BitVec.ofNat 32 (k * L.contentCap)) (chunkContent L blob k)

/-- The registers of the validator agree with each other as R26 to R29 and R105 say: bit 0 of RX_STICKY is 0;
RX_STATUS is a code from 0 to 4 whose sticky bit is set; RX_HALT is 1 exactly when a TruncatedInput has been seen,
and RX_STATUS then keeps 3; RX_LEN is 0 (nothing accepted yet) or a length VAL.CHUNK accepts. -/
abbrev State.RegsAgree (s : State) : Prop :=
  s.rxSticky.getLsbD 0 = false ∧
  s.rxStatus.toNat ≤ 4 ∧
  (s.rxStatus ≠ 0 → s.rxSticky.getLsbD s.rxStatus.toNat = true) ∧
  (s.rxHalt = 1 ↔ s.rxSticky.getLsbD 3 = true) ∧
  (s.rxHalt = 1 → s.rxStatus = 3) ∧
  (s.rxLen = 0 ∨ (4 ≤ s.rxLen.toNat ∧ s.rxLen.toNat ≤ s.layout.dataCap))

/-- "No VAL.CHUNK since VAL.INIT ended in an error of codes 1 to 4" (R232). -/
abbrev State.Clean (s : State) : Prop := s.rxSticky = 0

end Sys2Proof.Machine
end

