-- ==== Sys2Proof/Certificates/Slice0/Obligations.lean ====
section
/-! DEFINITION. The statements for the provers, from the spec's numbered rules, with the few words they share. -/

namespace Sys2Proof

open Machine

/-- The states after each instruction of a list, in order. -/
def statesAfter : List Instr → State → List State
  | [], _ => []
  | i :: is, s => runOp i s :: statesAfter is (runOp i s)

/-- The chunks of sub-binaries sent one after another: those of one come before those of the next, and the message ids
run on (R148, R197). -/
def chunksOfBlobs (L : Layout) : BitVec 6 → List (List Byte) → List Byte
  | _, [] => []
  | id, blob :: blobs =>
    ((List.range (chunkCount L blob.length)).map (chunkOfBlob L id blob)).flatten ++
      chunksOfBlobs L (id + BitVec.ofNat 6 (chunkCount L blob.length)) blobs

/-- An instruction is a request with operands that R101 admits. -/
def Instr.isRequest (i : Instr) : Bool := (encode i).1 == .request && i.wellFormed

/-- Two frames that agree everywhere but in the padding of the first and in the ID bits, bits 7:2 of byte 2 (R82,
R83). -/
def AgreeWhereChecked (L : Layout) (F G : List Byte) : Prop :=
  G.length = F.length ∧
  (∀ i, i ≠ 2 → ¬(3 + (frameLen L F).toNat ≤ i ∧ i < L.ckOff) → byteAt G i = byteAt F i) ∧
  (byteAt G 2).extractLsb' 0 2 = (byteAt F 2).extractLsb' 0 2

end Sys2Proof

open Sys2Proof Sys2Proof.Machine

/-! ## Reset, the step and decoding -/

/-- R39: what reset leaves in every register, in every configuration; MSGID_RESET is 0 by default (R8). -/
def Obligations.ResetGivesEveryRegister : Prop :=
  ∀ c : Config,
    (State.resetWith c).txId = c.msgIdReset ∧ (State.resetWith c).rxCount = 0 ∧ (State.resetWith c).rxOffset = 0 ∧
    (State.resetWith c).rxId = 0 ∧ (State.resetWith c).rxLen = 0 ∧ (State.resetWith c).rxStatus = 0 ∧
    (State.resetWith c).rxSticky = 0 ∧ (State.resetWith c).rxHalt = 0 ∧
    State.reset = State.resetWith Config.default ∧ Config.default.msgIdReset = 0 ∧ Config.default.profile = .t

/-- R250: the reset event sets every register and touches no stream. -/
def Obligations.ResetEventSetsRegistersKeepsStreams : Prop :=
  ∀ (s : State) (rest : List HostEvent), s.script = .reset :: rest →
    ∃ t, step s = .next t ∧
      t.txId = s.config.msgIdReset ∧ t.rxCount = 0 ∧ t.rxOffset = 0 ∧ t.rxId = 0 ∧ t.rxLen = 0 ∧ t.rxStatus = 0 ∧
      t.rxSticky = 0 ∧ t.rxHalt = 0 ∧
      t.sink = s.sink ∧ t.src = s.src ∧ t.srcPos = s.srcPos ∧ t.rbuf = s.rbuf ∧ t.config = s.config ∧
      t.script = rest

/-- R251: reset has the effect of ENC.INIT followed by VAL.INIT(0) on the registers, and all three keep the streams.
That the reset event leaves no completion is the model's choice (log 15). -/
def Obligations.ResetIsBothInits : Prop :=
  ∀ s : State, ∃ t u, exec .encInit s = .next t ∧ exec (.valInit 0) t = .next u ∧
    { u with completion := none } = s.resetBlock

/-- One step is the host's oldest act; issued octets that decode run exec of what they decode to. How a request is
laid out in octets and that the script is the model's own: logs 2 and 3. -/
def Obligations.StepRunsTheDecodedInstruction : Prop :=
  ∀ (s : State) (space : Space) (octets : List Byte) (rest : List HostEvent) (i : Instr),
    s.script = .issue space octets :: rest → decode space octets = .ok i →
    step s = exec i { s with script := rest }

/-- What a step does when the host does something else than issue a request (R32, R33, R61). The script, the two stops
and the channel that `carry` is, from SINK to SRC of one block, are the model's choices (logs 2, 12, 13, 16). -/
def Obligations.StepDoesTheHostsOtherActs : Prop :=
  ∀ (s : State) (rest : List HostEvent),
    (s.script = [] → step s = .next s) ∧
    (∀ bytes, s.script = .appendSink bytes :: rest →
      step s = .next { s with sink := s.sink ++ bytes, script := rest }) ∧
    (∀ bytes, s.script = .supplySrc bytes :: rest →
      step s = .next { s with src := s.src ++ bytes, script := rest }) ∧
    (∀ start, s.script = .carry start :: rest →
      step s = .next { s with src := s.src ++ s.sink.drop start, script := rest }) ∧
    (∀ n, s.script = .readSrc n :: rest → n ≤ s.src.length →
      step s = .next { s with src := s.src.drop n, srcPos := s.srcPos + n, script := rest }) ∧
    (∀ n, s.script = .readSrc n :: rest → s.src.length < n → step s = .fault .hostReadPastEnd) ∧
    (∀ space octets e, s.script = .issue space octets :: rest → decode space octets = .error e →
      step s = .refused (.undecodable e))

/-- R100's table of operation codes, each code's octet with operands that R101 gives it, and no code above 7; the
operand octets are the model's own (log 3), and that a reserved code is answered whatever follows it is deduced from
R229 (log 23). -/
def Obligations.OperationCodesDecode : Prop :=
  decode .request [0, 0x61] = .ok (.crcSpan [0x61]) ∧
  decode .request [1] = .ok .encInit ∧
  decode .request [2, 0x04, 0x03, 0x02, 0x01, 0x61] = .ok (.encChunk 0x01020304 [0x61]) ∧
  decode .request [3, 0x61, 0x62] = .ok (.encBlob [0x61, 0x62]) ∧
  decode .request [4, 0x90, 0, 0, 0] = .ok (.valInit 144) ∧
  decode .request [5] = .ok .valChunk ∧
  (∀ ops, decode .request (6 :: ops) = .ok .reserved6 ∧ decode .request (7 :: ops) = .ok .reserved7) ∧
  (∀ (sel : Byte) (ops : List Byte), 7 < sel.toNat → decode .request (sel :: ops) = .error .opselTooWide) ∧
  decode .header [0x09, 0x14] = .ok (.chunkHeader 5 9) ∧
  decode .marker [0x02] = .ok .chunkStart ∧
  decode .marker [0x03] = .ok .chunkEnd

/-- Decoding an encoded well-formed instruction gives it back, operands and all. -/
def Obligations.DecodeOfEncode : Prop :=
  ∀ i : Instr, i.wellFormed = true → decode (encode i).1 (encode i).2 = .ok i

/-- What decodes is well formed and, but for the two reserved codes (whose operands are not looked at, R229), was the
encoding of what it decodes to: no octets have two meanings and none are dropped. Which octets a request has, and that
all others are refused, is the model's choice (logs 3, 12), and the exception for the reserved codes is deduced (log
23). -/
def Obligations.DecodeAcceptsOnlyEncodings : Prop :=
  ∀ (space : Space) (octets : List Byte) (i : Instr), decode space octets = .ok i →
    i.wellFormed = true ∧ (i ≠ .reserved6 → i ≠ .reserved7 → encode i = (space, octets))

/-! ## The CRC unit -/

/-- R125: CRC.SPAN returns the checksum and writes nothing else. -/
def Obligations.CrcSpanReturnsChecksum : Prop :=
  ∀ (span : List Byte) (s : State),
    exec (.crcSpan span) s = .next { s with completion := some { code := .ok, value := .crc (crc32z span) } }

/-- R126, R127: zero bytes at the front do not count. -/
def Obligations.CrcIgnoresLeadingZeros : Prop :=
  crc32z [] = 0 ∧ crcByte 0 0 = 0 ∧ ∀ (k : Nat) (S : List Byte), crc32z (zeros k ++ S) = crc32z S ∧ crc32z (zeros k) = 0

/-- R128: the checksum is linear. -/
def Obligations.CrcIsLinear : Prop :=
  ∀ A B : List Byte, A.length = B.length →
    crc32z (List.zipWith (· ^^^ ·) A B) = crc32z A ^^^ crc32z B

/-- R129: a span may be streamed in pieces. -/
def Obligations.CrcContinues : Prop :=
  ∀ A B : List Byte, crc32z (A ++ B) = B.foldl crcByte (crc32z A)

/-- R130: the table form gives the same values as the bitwise form, and its anchor values. -/
def Obligations.CrcTableFormAgrees : Prop :=
  (∀ (a : Word) (b : Byte), crcByte a b = crcTable ((a ^^^ b.setWidth 32).setWidth 8) ^^^ (a >>> 8)) ∧
  (∀ b : Byte, crc32z [b] = crcTable b) ∧
  crcTable 0x00 = 0x00000000 ∧ crcTable 0x01 = 0x77073096 ∧ crcTable 0x80 = 0xEDB88320 ∧ crcTable 0xFF = 0x2D02EF8D

/-- R131: a change confined to 32 consecutive bits of the span or fewer always changes the full 32-bit value. The bits
are counted in the order they enter the accumulator, the low bit of each byte first (R122, R123), so the changed bits
are those of a little-endian number `m × 2^j` with `m` below `2^32`. -/
def Obligations.CrcDetectsBursts : Prop :=
  ∀ (A B E C : List Byte) (m j : Nat), E.length = B.length → 0 < m → m < 2 ^ 32 → unle E = m * 2 ^ j →
    crc32z (A ++ List.zipWith (· ^^^ ·) B E ++ C) ≠ crc32z (A ++ B ++ C)

/-- R131: within the reach of a chunk, the low 16 bits miss exactly one change of a single byte. -/
def Obligations.CrcLowHalfMissesOnePattern : Prop :=
  ∀ (A C : List Byte) (b d : Byte), d ≠ 0 → C.length ≤ 1017 →
    ((crc32z (A ++ (b ^^^ d) :: C)).toNat % 2 ^ 16 = (crc32z (A ++ b :: C)).toNat % 2 ^ 16 ↔
      d = 0xF1 ∧ C.length = 499)

/-! ## The header -/

/-- R90, R91: what pack and unpack compute, and that they are inverse, both ways. -/
def Obligations.HeaderPackUnpack : Prop :=
  (∀ (id : BitVec 6) (len : BitVec 10), (packHeader id len).toNat = (id.toNat <<< 10) ||| len.toNat) ∧
  (∀ hdr : BitVec 16, (headerLen hdr).toNat = hdr.toNat &&& 0x3FF ∧ (headerId hdr).toNat = hdr.toNat >>> 10) ∧
  (∀ hdr : BitVec 16, packHeader (headerId hdr) (headerLen hdr) = hdr) ∧
  (∀ (id : BitVec 6) (len : BitVec 10), headerId (packHeader id len) = id ∧ headerLen (packHeader id len) = len)

/-- R82: byte 1 of a chunk holds LEN[7:0], byte 2 holds ID in its bits 7:2 and LEN[9:8] in its bits 1:0. -/
def Obligations.HeaderBytesOnTheWire : Prop :=
  ∀ (id : BitVec 6) (len : BitVec 10),
    le 2 (packHeader id len).toNat = [len.extractLsb' 0 8, id ++ len.extractLsb' 8 2]

/-! ## The encoder -/

/-- R140: ENC.INIT loads MSGID_RESET and writes nothing else. -/
def Obligations.EncInitLoadsMessageId : Prop :=
  ∀ s : State, exec .encInit s =
    .next { s with txId := s.config.msgIdReset, completion := some { code := .ok, value := .none } }

/-- R141, R143, R144: ENC.CHUNK appends the chunk of R80 with TX_ID's old value, zero padding and the reduced
checksum, advances TX_ID modulo 64, and writes nothing else. -/
def Obligations.EncChunkAppendsOneChunk : Prop :=
  ∀ (off : Word) (content : List Byte) (s : State),
    1 ≤ content.length → content.length ≤ s.layout.contentCap →
    exec (.encChunk off content) s =
      .next { s with
        txId := s.txId + 1
        sink := s.sink ++ chunkBytes s.layout s.txId off content
        completion := some { code := .ok, value := .none } }

/-- R142: ENC.CHUNK answers BadRequest, code 5, and changes nothing exactly when the length is 0 or above CONTENT_CAP;
`off` is never checked. -/
def Obligations.EncChunkRefusesLength : Prop :=
  ResultCode.badRequest.toBits = 5 ∧
  ∀ (off : Word) (content : List Byte) (s : State),
    (content.length = 0 ∨ s.layout.contentCap < content.length →
      exec (.encChunk off content) s =
        .next { s with completion := some { code := .badRequest, value := .none } }) ∧
    (1 ≤ content.length → content.length ≤ s.layout.contentCap →
      ∃ t, exec (.encChunk off content) s = .next t ∧ t.completion = some { code := .ok, value := .none })

/-- R152: the bounds that hold for every chunk ENC.CHUNK emits. -/
def Obligations.EmittedChunkBounds : Prop :=
  ∀ (off : Word) (content : List Byte) (s : State),
    1 ≤ content.length → content.length ≤ s.layout.contentCap →
    ∃ t F, exec (.encChunk off content) s = .next t ∧ t.sink = s.sink ++ F ∧ F.length = 1024 ∧
      5 ≤ memRead F 1 2 % 1024 ∧ memRead F 1 2 % 1024 ≤ s.layout.dataCap ∧
      byteAt F 0 = 0x02 ∧ byteAt F 1023 = 0x03 ∧ memRead F 3 4 = off.toNat ∧
      slice F 7 (memRead F 1 2 % 1024 - 4) = content ∧
      memRead F s.layout.ckOff s.layout.cksumBytes =
        (crc32z (slice F 3 (memRead F 1 2 % 1024))).toNat % 2 ^ (8 * s.layout.cksumBytes) ∧
      (∀ i, 3 + memRead F 1 2 % 1024 ≤ i → i < s.layout.ckOff → byteAt F i = 0)

/-- R146, R147: ENC.BLOB emits `ceil(size / CONTENT_CAP)` chunks, chunk `k` at offset `k × CONTENT_CAP`, advances
TX_ID by their number, returns it, and writes nothing else. -/
def Obligations.EncBlobEmitsItsChunks : Prop :=
  ∀ (blob : List Byte) (s : State), blob.length < 2 ^ 32 →
    exec (.encBlob blob) s =
      .next { s with
        txId := s.txId + BitVec.ofNat 6 (chunkCount s.layout blob.length)
        sink := s.sink ++
          ((List.range (chunkCount s.layout blob.length)).map (chunkOfBlob s.layout s.txId blob)).flatten
        completion := some { code := .ok, value := .chunks (chunkCount s.layout blob.length) } }

/-- R147: every chunk but the last is full, the last holds what is left and at least one byte, and the contents in
chunk order are the blob. -/
def Obligations.BlobChunksPartitionTheBlob : Prop :=
  ∀ (p : Profile) (blob : List Byte),
    ((List.range (chunkCount p.layout blob.length)).map (chunkContent p.layout blob)).flatten = blob ∧
    (∀ k, k + 1 < chunkCount p.layout blob.length →
      (chunkContent p.layout blob k).length = p.layout.contentCap) ∧
    (∀ k, k + 1 = chunkCount p.layout blob.length →
      (chunkContent p.layout blob k).length = blob.length - k * p.layout.contentCap ∧
      1 ≤ (chunkContent p.layout blob k).length ∧
      (chunkContent p.layout blob k).length ≤ p.layout.contentCap) ∧
    (chunkCount p.layout blob.length = 0 ↔ blob = [])

/-- R149: ENC.BLOB is the iteration of ENC.CHUNK, issued one request a step; only the completion differs (one at the
end, with the count). -/
def Obligations.EncBlobIsEncChunksInOrder : Prop :=
  ∀ (blob : List Byte) (s : State), blob.length < 2 ^ 32 →
    ∃ t u,
      runSteps (chunkCount s.layout blob.length)
        { s with script := (List.range (chunkCount s.layout blob.length)).map fun k =>
            issueInstr (.encChunk (BitVec.ofNat 32 (k * s.layout.contentCap)) (chunkContent s.layout blob k)) } =
        .next t ∧
      step { s with script := [issueInstr (.encBlob blob)] } = .next u ∧
      u = { t with completion := some { code := .ok, value := .chunks (chunkCount s.layout blob.length) } }

/-! ## The validator -/

/-- R160: VAL.INIT presets the count and clears the other RX registers; the streams stay. -/
def Obligations.ValInitPresetsRx : Prop :=
  ∀ (count0 : Word) (s : State), exec (.valInit count0) s =
    .next { s with
      rxCount := count0, rxOffset := 0, rxId := 0, rxLen := 0, rxStatus := 0, rxSticky := 0, rxHalt := 0
      completion := some { code := .ok, value := .none } }

/-- R168: halted, VAL.CHUNK answers Halted and changes nothing. -/
def Obligations.ValChunkHaltedChangesNothing : Prop :=
  ∀ s : State, s.rxHalt = 1 →
    exec .valChunk s = .next { s with completion := some { code := .halted, value := .none } }

/-- R162: with fewer than CHUNK_SIZE bytes in SRC, VAL.CHUNK takes nothing, halts, and says TruncatedInput. -/
def Obligations.ValChunkTruncatedHalts : Prop :=
  ∀ s : State, s.rxHalt = 0 → s.src.length < 1024 →
    exec .valChunk s =
      .next { s with
        rxHalt := 1, rxStatus := 3, rxSticky := s.rxSticky ||| 0b01000
        completion := some { code := .truncatedInput, value := .none } }

/-- R163: a wrong start or end marker, whatever else the frame holds. -/
def Obligations.ValChunkRejectsMarkers : Prop :=
  ∀ s : State, s.rxHalt = 0 → 1024 ≤ s.src.length →
    byteAt s.src 0 ≠ 0x02 ∨ byteAt s.src 1023 ≠ 0x03 →
    exec .valChunk s =
      .next { s with
        src := s.src.drop 1024, srcPos := s.srcPos + 1024
        rxStatus := 1, rxSticky := s.rxSticky ||| 0b00010
        completion := some { code := .badMarker, value := .none } }

/-- R164: LEN below 4 or above DATA_CAP, whatever the checksum; any other LEN, 4 among them, passes this check. LEN is
the low 10 bits of the little-endian header. -/
def Obligations.ValChunkRejectsLength : Prop :=
  ∀ s : State, s.rxHalt = 0 → 1024 ≤ s.src.length →
    byteAt s.src 0 = 0x02 → byteAt s.src 1023 = 0x03 →
    (memRead s.src 1 2 % 1024 < 4 ∨ s.layout.dataCap < memRead s.src 1 2 % 1024 →
      exec .valChunk s =
        .next { s with
          src := s.src.drop 1024, srcPos := s.srcPos + 1024
          rxStatus := 4, rxSticky := s.rxSticky ||| 0b10000
          completion := some { code := .badLength, value := .none } }) ∧
    (4 ≤ memRead s.src 1 2 % 1024 → memRead s.src 1 2 % 1024 ≤ s.layout.dataCap →
      ∃ t c, exec .valChunk s = .next t ∧ t.completion = some c ∧ (c.code = .ok ∨ c.code = .checksumMismatch))

/-- R165: the recomputed checksum of the span, reduced, differs from the stored field. -/
def Obligations.ValChunkRejectsChecksum : Prop :=
  ∀ s : State, s.rxHalt = 0 → 1024 ≤ s.src.length →
    byteAt s.src 0 = 0x02 → byteAt s.src 1023 = 0x03 →
    4 ≤ memRead s.src 1 2 % 1024 → memRead s.src 1 2 % 1024 ≤ s.layout.dataCap →
    (crc32z (slice s.src 3 (memRead s.src 1 2 % 1024))).toNat % 2 ^ (8 * s.layout.cksumBytes) ≠
      memRead s.src s.layout.ckOff s.layout.cksumBytes →
    exec .valChunk s =
      .next { s with
        src := s.src.drop 1024, srcPos := s.srcPos + 1024
        rxStatus := 2, rxSticky := s.rxSticky ||| 0b00100
        completion := some { code := .checksumMismatch, value := .none } }

/-- R161, R166, R167: a frame that passes every check: the offset, id and length are latched, the content goes to the
end of RBUF, the count grows by its length modulo 2^32. -/
def Obligations.ValChunkAccepts : Prop :=
  ∀ s : State, s.rxHalt = 0 → 1024 ≤ s.src.length →
    byteAt s.src 0 = 0x02 → byteAt s.src 1023 = 0x03 →
    4 ≤ memRead s.src 1 2 % 1024 → memRead s.src 1 2 % 1024 ≤ s.layout.dataCap →
    (crc32z (slice s.src 3 (memRead s.src 1 2 % 1024))).toNat % 2 ^ (8 * s.layout.cksumBytes) =
      memRead s.src s.layout.ckOff s.layout.cksumBytes →
    exec .valChunk s =
      .next { s with
        src := s.src.drop 1024, srcPos := s.srcPos + 1024
        rxOffset := BitVec.ofNat 32 (memRead s.src 3 4)
        rxId := BitVec.ofNat 6 (memRead s.src 1 2 / 1024)
        rxLen := BitVec.ofNat 10 (memRead s.src 1 2 % 1024)
        rxCount := s.rxCount + BitVec.ofNat 32 (memRead s.src 1 2 % 1024 - 4)
        rxStatus := 0
        rbuf := s.rbuf ++ slice s.src 7 (memRead s.src 1 2 % 1024 - 4)
        completion := some { code := .ok, value := .bytesWritten (memRead s.src 1 2 % 1024 - 4) } }

/-- R170: VAL.CHUNK accepts what ENC.CHUNK of the same layout emitted and recovers its operands. -/
def Obligations.ValidatorAcceptsEncoderOutput : Prop :=
  ∀ (off : Word) (content F rest : List Byte) (e e' s : State),
    1 ≤ content.length → content.length ≤ e.layout.contentCap →
    exec (.encChunk off content) e = .next e' → e'.sink = e.sink ++ F →
    s.config.profile = e.config.profile → s.rxHalt = 0 → s.src = F ++ rest →
    exec .valChunk s =
      .next { s with
        src := rest, srcPos := s.srcPos + 1024
        rxOffset := off, rxId := e.txId, rxLen := BitVec.ofNat 10 (content.length + 4)
        rxCount := s.rxCount + BitVec.ofNat 32 content.length
        rxStatus := 0
        rbuf := s.rbuf ++ content
        completion := some { code := .ok, value := .bytesWritten content.length } }

/-- R171: the chunks of one ENC.BLOB, carried to SRC whole and in order, are all accepted and give the blob back. -/
def Obligations.BlobRoundTrip : Prop :=
  ∀ (blob F : List Byte) (e e' s : State), blob.length < 2 ^ 32 →
    exec (.encBlob blob) e = .next e' → e'.sink = e.sink ++ F →
    s.config.profile = e.config.profile → s.rxHalt = 0 → s.src = F →
    (∀ j, j < chunkCount s.layout blob.length →
      ∃ u v, runSteps (j + 1)
        { s with script := List.replicate (chunkCount s.layout blob.length) (issueInstr .valChunk) } = .next u ∧
        u.completion = some { code := .ok, value := v }) ∧
    (∃ t, runSteps (chunkCount s.layout blob.length)
        { s with script := List.replicate (chunkCount s.layout blob.length) (issueInstr .valChunk) } = .next t ∧
      t.rbuf = s.rbuf ++ blob ∧ t.rxCount = s.rxCount + BitVec.ofNat 32 blob.length ∧ t.src = [] ∧
      t.rxHalt = 0 ∧ t.rxSticky = s.rxSticky ∧ t.txId = s.txId ∧ t.sink = s.sink)

/-- R173: a frame with right markers, any ID, LEN from 4 to DATA_CAP and all other bytes zero is accepted and appends
`LEN - 4` zero bytes. -/
def Obligations.ZeroFrameIsAccepted : Prop :=
  ∀ (id : BitVec 6) (len : BitVec 10) (rest : List Byte) (s : State),
    4 ≤ len.toNat → len.toNat ≤ s.layout.dataCap → s.rxHalt = 0 →
    s.src = [0x02] ++ le 2 (packHeader id len).toNat ++ zeros 1020 ++ [0x03] ++ rest →
    ∃ t, exec .valChunk s = .next t ∧
      t.completion = some { code := .ok, value := .bytesWritten (len.toNat - 4) } ∧
      t.rbuf = s.rbuf ++ zeros (len.toNat - 4) ∧ t.rxId = id ∧ t.rxLen = len ∧ t.rxOffset = 0 ∧ t.src = rest

/-- R172 (c) and (e), R106: the ID bits and the padding are never looked at: two frames that differ only there get the
same answer and leave the same state but for RX_ID. -/
def Obligations.IdAndPaddingAreNotChecked : Prop :=
  ∀ (s : State) (F G rest : List Byte) (t u : State),
    F.length = 1024 → AgreeWhereChecked s.layout F G → frameLenOk s.layout F = true →
    exec .valChunk { s with src := F ++ rest } = .next t →
    exec .valChunk { s with src := G ++ rest } = .next u →
    u = { t with rxId := u.rxId, src := u.src } ∧ (s.rxHalt = 0 → u.src = t.src)

/-- R172 (b), profile W: any change of one byte of the span of a frame that is accepted gives ChecksumMismatch. -/
def Obligations.OneByteChangeDetectedInProfileW : Prop :=
  ∀ (s t : State) (F rest : List Byte) (p : Nat) (d : Byte),
    s.config.profile = .w → F.length = 1024 → s.rxHalt = 0 →
    exec .valChunk { s with src := F ++ rest } = .next t →
    (∃ v, t.completion = some { code := .ok, value := v }) →
    p < (frameLen s.layout F).toNat → d ≠ 0 →
    ∃ u, exec .valChunk { s with src := F.set (3 + p) (byteAt F (3 + p) ^^^ d) ++ rest } = .next u ∧
      u.completion = some { code := .checksumMismatch, value := .none }

/-- R172 (b), profile T: the same with its one exception, XOR 0xF1 at span index LEN - 500, which is accepted. -/
def Obligations.OneByteChangeInProfileT : Prop :=
  ∀ (s t : State) (F rest : List Byte) (p : Nat) (d : Byte),
    s.config.profile = .t → F.length = 1024 → s.rxHalt = 0 →
    exec .valChunk { s with src := F ++ rest } = .next t →
    (∃ v, t.completion = some { code := .ok, value := v }) →
    p < (frameLen s.layout F).toNat → d ≠ 0 →
    ∃ u, exec .valChunk { s with src := F.set (3 + p) (byteAt F (3 + p) ^^^ d) ++ rest } = .next u ∧
      (if d = 0xF1 ∧ p + 500 = (frameLen s.layout F).toNat then
        ∃ v, u.completion = some { code := .ok, value := v }
      else u.completion = some { code := .checksumMismatch, value := .none })

/-- R172 (f): any change within the checksum field of a frame that is accepted gives ChecksumMismatch. -/
def Obligations.ChecksumFieldChangeDetected : Prop :=
  ∀ (s t : State) (F ck rest : List Byte),
    F.length = 1024 → s.rxHalt = 0 →
    exec .valChunk { s with src := F ++ rest } = .next t →
    (∃ v, t.completion = some { code := .ok, value := v }) →
    ck.length = s.layout.cksumBytes → ck ≠ slice F s.layout.ckOff s.layout.cksumBytes →
    ∃ u, exec .valChunk { s with src := writeAt F s.layout.ckOff ck ++ rest } = .next u ∧
      u.completion = some { code := .checksumMismatch, value := .none }

/-- R174: what VAL.CHUNK answers depends on the frame, RX_HALT and the layout alone: not on the count, the last
offset, the last id or anything received before, so a missing, repeated or swapped chunk is not noticed. -/
def Obligations.AnswerDependsOnTheFrameAlone : Prop :=
  ∀ (s s' t t' : State), s'.config.profile = s.config.profile → s'.rxHalt = s.rxHalt →
    1024 ≤ s.src.length → 1024 ≤ s'.src.length → s'.src.take 1024 = s.src.take 1024 →
    exec .valChunk s = .next t → exec .valChunk s' = .next t' →
    t'.completion = t.completion ∧ t'.rbuf.drop s'.rbuf.length = t.rbuf.drop s.rbuf.length

/-! ## Reserved codes and wire fields -/

/-- R104: OPSEL 6 and 7 answer BadOp, code 7, and change no register and no stream. -/
def Obligations.ReservedCodesAnswerBadOp : Prop :=
  ResultCode.badOp.toBits = 7 ∧ ∀ s : State,
    exec .reserved6 s = .next { s with completion := some { code := .badOp, value := .none } } ∧
    exec .reserved7 s = .next { s with completion := some { code := .badOp, value := .none } }

/-- The wire rows of the opcode table: the host puts the field's bytes at the end of SRC and nothing else changes. The
bytes are R81's and R82's; that such a row acts on SRC is the model's choice (log 5). -/
def Obligations.WireFieldsGoToSrc : Prop :=
  ∀ (id : BitVec 6) (len : BitVec 10) (s : State),
    exec (.chunkHeader id len) s =
      .next { s with src := s.src ++ [len.extractLsb' 0 8, id ++ len.extractLsb' 8 2] } ∧
    exec .chunkStart s = .next { s with src := s.src ++ [0x02] } ∧
    exec .chunkEnd s = .next { s with src := s.src ++ [0x03] }

/-- R220: the numbers of the result codes, in 3 bits. -/
def Obligations.ResultCodeNumbers : Prop :=
  ResultCode.ok.toBits = 0 ∧ ResultCode.badMarker.toBits = 1 ∧ ResultCode.checksumMismatch.toBits = 2 ∧
  ResultCode.truncatedInput.toBits = 3 ∧ ResultCode.badLength.toBits = 4 ∧ ResultCode.badRequest.toBits = 5 ∧
  ResultCode.halted.toBits = 6 ∧ ResultCode.badOp.toBits = 7

/-! ## The whole machine -/

/-- R22's column "written by": TX_ID changes only by the ENC operations, the RX registers only by VAL.INIT and
VAL.CHUNK; and no instruction touches the configuration or the host's script. -/
def Obligations.RegistersHaveTheirWriters : Prop :=
  ∀ (i : Instr) (s t : State), exec i s = .next t →
    (t.txId = s.txId ∨ i = .encInit ∨ (∃ off content, i = .encChunk off content) ∨ (∃ blob, i = .encBlob blob)) ∧
    ((t.rxCount = s.rxCount ∧ t.rxOffset = s.rxOffset ∧ t.rxId = s.rxId ∧ t.rxLen = s.rxLen ∧
        t.rxStatus = s.rxStatus ∧ t.rxSticky = s.rxSticky ∧ t.rxHalt = s.rxHalt) ∨
      (∃ count0, i = .valInit count0) ∨ i = .valChunk) ∧
    t.config = s.config ∧ t.script = s.script

/-- R32, R33, R34, R55: SINK and RBUF only grow at their ends and SRC is only taken from its front; only ENC.CHUNK and
ENC.BLOB write SINK, whole chunks at a time; only VAL.CHUNK takes from SRC, one chunk or nothing, and appends to RBUF. -/
def Obligations.StreamsMoveAsTheRulesSay : Prop :=
  ∀ (i : Instr) (s t : State), i.isRequest = true → exec i s = .next t →
    (∃ bytes, t.sink = s.sink ++ bytes ∧ 1024 ∣ bytes.length ∧
      (bytes ≠ [] → (∃ off content, i = .encChunk off content) ∨ (∃ blob, i = .encBlob blob))) ∧
    (∃ bytes, s.src = bytes ++ t.src ∧ t.srcPos = s.srcPos + bytes.length ∧
      (bytes = [] ∨ (bytes.length = 1024 ∧ i = .valChunk))) ∧
    (∃ bytes, t.rbuf = s.rbuf ++ bytes ∧ bytes.length ≤ s.layout.contentCap ∧ (bytes ≠ [] → i = .valChunk))

/-- R231: what an operation that ends in an error has changed, code by code. -/
def Obligations.ErrorsAreLocal : Prop :=
  ∀ (i : Instr) (s t : State) (c : Completion), i.isRequest = true → exec i s = .next t →
    t.completion = some c → c.code ≠ .ok →
    c.value = .none ∧
    t.sink = s.sink ∧ t.rbuf = s.rbuf ∧ t.rxCount = s.rxCount ∧ t.rxOffset = s.rxOffset ∧ t.rxId = s.rxId ∧
    t.rxLen = s.rxLen ∧ t.txId = s.txId ∧
    ((c.code = .badMarker ∨ c.code = .badLength ∨ c.code = .checksumMismatch) →
      t.src = s.src.drop 1024 ∧ 1024 ≤ s.src.length ∧ t.rxStatus = c.code.toBits ∧
      t.rxSticky = s.rxSticky ||| (1#5 <<< c.code.toBits.toNat) ∧ t.rxHalt = s.rxHalt) ∧
    (c.code = .truncatedInput →
      t.src = s.src ∧ t.rxStatus = 3 ∧ t.rxSticky = s.rxSticky ||| 0b01000 ∧ t.rxHalt = 1) ∧
    ((c.code = .badRequest ∨ c.code = .halted ∨ c.code = .badOp) → t = { s with completion := some c })

/-- R28: bit `k` of RX_STICKY becomes 1 exactly when a VAL.CHUNK ends with result code `k`, and stays 1 until VAL.INIT
(or reset). -/
def Obligations.StickyBitsStick : Prop :=
  ∀ (i : Instr) (s t : State), exec i s = .next t → (∀ count0, i ≠ .valInit count0) →
    ∀ k : Nat, 1 ≤ k → k ≤ 4 →
      (t.rxSticky.getLsbD k = true ↔
        s.rxSticky.getLsbD k = true ∨
          (i = .valChunk ∧ ∃ c, t.completion = some c ∧ c.code.toBits.toNat = k))

/-- R232: over any sequence of requests after a clean start and without VAL.INIT, RX_STICKY is 0 at the end exactly
when no request ended in an error of codes 1 to 4. -/
def Obligations.StickyTellsWhetherAnyChunkFailed : Prop :=
  ∀ (is : List Instr) (s : State), s.Clean → (∀ i ∈ is, i.isRequest = true) →
    (∀ i ∈ is, ∀ count0, i ≠ .valInit count0) →
    (((statesAfter is s).getLastD s).Clean ↔
      ∀ t ∈ statesAfter is s, ∀ c, t.completion = some c →
        ¬(1 ≤ c.code.toBits.toNat ∧ c.code.toBits.toNat ≤ 4))

/-- R29: a step that leaves the halted state is VAL.INIT or reset. -/
def Obligations.OnlyInitOrResetLeavesHalt : Prop :=
  ∀ s t : State, s.rxHalt = 1 → step s = .next t → t.rxHalt ≠ 1 →
    (∃ rest, s.script = .reset :: rest) ∨
    (∃ octets rest count0, s.script = .issue .request octets :: rest ∧
      decode .request octets = .ok (.valInit count0))

/-- R168: CRC.SPAN and the ENC operations are not affected by RX_HALT, nor by any other register of the validator, SRC
or RBUF: what they do with any values there, they do with any other. -/
def Obligations.EncoderIgnoresValidator : Prop :=
  ∀ (i : Instr) (s s' t : State),
    ((∃ span, i = .crcSpan span) ∨ i = .encInit ∨ (∃ off content, i = .encChunk off content) ∨
      (∃ blob, i = .encBlob blob)) →
    s'.config = s.config → s'.txId = s.txId → s'.sink = s.sink → exec i s = .next t →
    exec i s' = .next { s' with txId := t.txId, sink := t.sink, completion := t.completion }

/-- R26 to R29, R105: the validator's registers agree with each other after every step. -/
def Obligations.RegsAgreeStep : Prop :=
  ∀ s t : State, s.RegsAgree → step s = .next t → t.RegsAgree

/-- They agree after reset, in every configuration. -/
def Obligations.RegsAgreeAtReset : Prop := ∀ c : Config, (State.resetWith c).RegsAgree

/-! ## The environment -/

/-- R190, R192: the descriptors' sizes and fields, and reading them back. R195: the reserved bytes do not matter to a
reader, and a host that says nothing about them writes 0x00. -/
def Obligations.DescriptorsReadBack : Prop :=
  (∀ (w : Word) (sw : Nat → Word) (n : Nat) (e : ErrorPolicy) (p : PadPolicy),
    ({ mainWatermark := w, subWatermark := sw, maxSubCount := n, errorPolicy := e, padPolicy := p } :
      HostParams).reservedFill = 0x00) ∧
  ∀ (fill : Byte) (m : MainDescriptor) (d : SubDescriptor),
    (m.encode fill).length = 16 ∧ MainDescriptor.decode (m.encode fill) = m ∧
    (d.encode fill).length = 64 ∧ SubDescriptor.decode (d.encode fill) = d ∧
    m.encode fill = le 4 m.watermark.toNat ++ le 4 m.subCount.toNat ++ List.replicate 8 fill ∧
    d.encode fill = le 4 d.watermark.toNat ++ le 4 d.startOffset.toNat ++ le 4 d.size.toNat ++
      le 4 d.checksum.toNat ++ List.replicate 48 fill

/-- R193, R194: one SubDescriptor per input; the first offset is `16 + 64 × count`, each next one is the last plus its
aligned size, and every offset is a multiple of 4. -/
def Obligations.OffsetsAreAlignedAndChained : Prop :=
  ∀ (P : HostParams) (blobs : List (List Byte)), transferEnd blobs < 2 ^ 32 →
    (buildDescriptors P blobs).2.length = blobs.length ∧
    (∀ d, (buildDescriptors P blobs).2.head? = some d → d.startOffset.toNat = 16 + 64 * blobs.length) ∧
    (∀ (i : Nat) (d : SubDescriptor) (blob : List Byte),
      (buildDescriptors P blobs).2[i]? = some d → blobs[i]? = some blob →
      d.watermark = P.subWatermark i ∧ d.size.toNat = blob.length ∧ d.checksum = crc32z blob ∧
      d.startOffset.toNat % 4 = 0) ∧
    (∀ (i : Nat) (d d' : SubDescriptor),
      (buildDescriptors P blobs).2[i]? = some d → (buildDescriptors P blobs).2[i + 1]? = some d' →
      d.startOffset.toNat + align4 d.size.toNat = d'.startOffset.toNat)

/-- R197, R198: the sender's script runs to its end and has then appended to SINK the MainDescriptor, the
SubDescriptors in index order and the chunks, those of one sub-binary before those of the next, message ids running on
from MSGID_RESET: `16 + 64 × count + 1024 × Σ ceil(size / CONTENT_CAP)` bytes. -/
def Obligations.SenderEmitsTheStream : Prop :=
  ∀ (P : HostParams) (blobs : List (List Byte)) (s : State), transferEnd blobs < 2 ^ 32 →
    ∃ t, runSteps (senderScript P blobs).length { s with script := senderScript P blobs } = .next t ∧
      t.script = [] ∧
      t.sink = s.sink ++ (buildDescriptors P blobs).1.encode P.reservedFill ++
        ((buildDescriptors P blobs).2.map fun d => d.encode P.reservedFill).flatten ++
        chunksOfBlobs s.layout s.config.msgIdReset blobs ∧
      t.sink.length = s.sink.length +
        (16 + 64 * blobs.length + 1024 * (blobs.map fun blob => chunkCount s.layout blob.length).sum)

/-- R196, R205: the receiving host reads 16 bytes, compares the count with MAX_SUB_COUNT before it reads a SubDescriptor,
and cannot go on past the end of SRC. How it reports a count too large is the model's (log 19). -/
def Obligations.ReceiverChecksTheCount : Prop :=
  ∀ (P : HostParams) (s : State),
    (s.src.length < 16 → receiveTransfer P s = ({ result := .truncatedInput, sticky := none }, s)) ∧
    (16 ≤ s.src.length → P.maxSubCount < memRead s.src 4 4 →
      receiveTransfer P s =
        ({ result := .tooManySubBinaries, sticky := none }, { s with src := s.src.drop 16, srcPos := s.srcPos + 16 })) ∧
    (16 ≤ s.src.length → memRead s.src 4 4 ≤ P.maxSubCount → s.src.length < 16 + 64 * memRead s.src 4 4 →
      receiveTransfer P s =
        ({ result := .truncatedInput, sticky := none }, { s with src := s.src.drop 16, srcPos := s.srcPos + 16 }))

/-- R206: a rejected chunk ends the receive loop with its code under `abort`; under `continue` the loop goes on with the
next chunk. -/
def Obligations.ReceiveLoopFollowsThePolicy : Prop :=
  ∀ (P : HostParams) (pads target fuel : Nat) (s t : State) (c : ResultCode),
    s.rxCount.toNat + pads < target → exec .valChunk s = .next t →
    t.completion = some { code := c, value := .none } →
    c = .badMarker ∨ c = .badLength ∨ c = .checksumMismatch →
    t.rxCount = s.rxCount ∧
    (P.errorPolicy = .abort → receiveLoop P pads target (fuel + 1) s = (some (.chunkError c), t)) ∧
    (P.errorPolicy = .continue → receiveLoop P pads target (fuel + 1) s = receiveLoop P pads target fuel t)

/-- R258: past the receive loop the host looks at RX_STICKY before it verifies, so a transfer that ends in success or in
a checksum mismatch has seen it; it is what the block still shows at the end; under `abort` it can only be 0 then (R206,
R232). That the look is reported beside the result, and that a transfer that ends in the loop has none, is the model's
choice (log 19). -/
def Obligations.ReceiverLooksAtSticky : Prop :=
  ∀ (P : HostParams) (subs : List SubDescriptor) (s t : State) (r : HostReport),
    receiveAndVerify P subs s = (r, t) →
    (r.result = .success → r.sticky.isSome = true) ∧
    (∀ i, r.result = .checksumMismatch i → r.sticky.isSome = true) ∧
    (∀ bits, r.sticky = some bits → bits = t.rxSticky ∧ (P.errorPolicy = .abort → bits = 0))

/-- R208: the verifier reports success exactly when every sub-binary's bytes are there and their recomputed checksum
matches its descriptor. That a read outside the host's copy of the stream is no success is the model's choice (log
19). -/
def Obligations.VerifierSucceedsIffAllMatch : Prop :=
  ∀ (copy : List Byte) (subs : List SubDescriptor),
    verifyAll copy subs = .success ↔
      ∀ d ∈ subs, descriptorBytes subs.length ≤ d.startOffset.toNat ∧
        d.endOffset - descriptorBytes subs.length ≤ copy.length ∧
        crc32z (slice copy (d.startOffset.toNat - descriptorBytes subs.length) d.size.toNat) = d.checksum

/-- The receive loop never runs out of fuel: any two amounts above the bytes left in SRC give the same (log 19). -/
def Obligations.ReceiveLoopFuelSuffices : Prop :=
  ∀ (P : HostParams) (pads target f g : Nat) (s : State), s.src.length < f → s.src.length < g →
    receiveLoop P pads target f s = receiveLoop P pads target g s

/-- R211: encode, transmit, receive, reassemble and verify, over at least one sub-binary and a channel that delivers
every byte once and in order (R68): the receiving host reports success, has seen RX_STICKY = 0, and RBUF is the
sub-binaries in order. Without pad bytes the sizes are multiples of 4 (R209). The other case, any sizes under
receiver_inserts_zeros, goes beyond R211 and rests on the model's choice of how the host inserts the pad bytes (log
20). -/
def Obligations.EndToEndTransferSucceeds : Prop :=
  ∀ (P : HostParams) (blobs : List (List Byte)) (s t r : State),
    blobs ≠ [] → transferEnd blobs < 2 ^ 32 → blobs.length ≤ P.maxSubCount →
    (P.padPolicy = .none → ∀ blob ∈ blobs, blob.length % 4 = 0) →
    s.sink = [] →
    runSteps (senderScript P blobs).length { s with script := senderScript P blobs } = .next t →
    r.config.profile = s.config.profile → r.src = t.sink → r.rbuf = [] →
    ∃ u, receiveTransfer P r = ({ result := .success, sticky := some 0 }, u) ∧ u.rbuf = blobs.flatten ∧ u.src = [] ∧ u.Clean
end

