-- ==== Sys2Proof/Laws/Bytes.lean ====
section
/-! SUPPORT. Laws of byte sequences, byte order, the frame access primitives and the header's fields. -/

namespace Sys2Proof.Machine

@[simp] theorem zeros_length (n : Nat) : (zeros n).length = n := List.length_replicate

@[simp] theorem zeros_zero : zeros 0 = [] := rfl

theorem zeros_add (m n : Nat) : zeros (m + n) = zeros m ++ zeros n := List.replicate_add ..

@[simp] theorem zeros_drop (m n : Nat) : (zeros n).drop m = zeros (n - m) := List.drop_replicate ..

@[simp] theorem zeros_take (m n : Nat) : (zeros n).take m = zeros (min m n) := List.take_replicate ..

/-! ## Byte order -/

@[simp] theorem le_length (n v : Nat) : (le n v).length = n := by
  induction n generalizing v with
  | zero => rfl
  | succ n ih => simp [le, ih]

@[simp] theorem unle_nil : unle [] = 0 := rfl

theorem unle_cons (b : Byte) (bs : List Byte) : unle (b :: bs) = b.toNat + 256 * unle bs := rfl

theorem unle_lt (bs : List Byte) : unle bs < 2 ^ (8 * bs.length) := by
  induction bs with
  | nil => simp
  | cons b bs ih =>
    have hb := b.isLt
    rw [unle_cons, List.length_cons, show 8 * (bs.length + 1) = 8 * bs.length + 8 by ring, pow_add]
    omega

theorem unle_le (n v : Nat) : unle (le n v) = v % 2 ^ (8 * n) := by
  induction n generalizing v with
  | zero => simp [le, Nat.mod_one]
  | succ n ih =>
    rw [le, unle_cons, ih, BitVec.toNat_ofNat, show 8 * (n + 1) = 8 + 8 * n by ring, pow_add,
      Nat.mod_mul]
    norm_num

theorem unle_le_of_lt {n v : Nat} (h : v < 2 ^ (8 * n)) : unle (le n v) = v := by
  rw [unle_le, Nat.mod_eq_of_lt h]

theorem le_unle (bs : List Byte) : le bs.length (unle bs) = bs := by
  induction bs with
  | nil => rfl
  | cons b bs ih =>
    have hb := b.isLt
    rw [List.length_cons, le, unle_cons, show (b.toNat + 256 * unle bs) / 256 = unle bs by omega, ih]
    congr 1
    apply BitVec.eq_of_toNat_eq
    rw [BitVec.toNat_ofNat]
    omega

theorem unle_injective {xs ys : List Byte} (hl : xs.length = ys.length) (h : unle xs = unle ys) : xs = ys := by
  rw [← le_unle xs, ← le_unle ys, hl, h]

theorem unle_append (xs ys : List Byte) : unle (xs ++ ys) = unle xs + 2 ^ (8 * xs.length) * unle ys := by
  induction xs with
  | nil => simp
  | cons x xs ih =>
    rw [List.cons_append, unle_cons, ih, unle_cons, List.length_cons,
      show 8 * (xs.length + 1) = 8 + 8 * xs.length by ring, pow_add]
    ring

@[simp] theorem unle_zeros (n : Nat) : unle (zeros n) = 0 := by
  induction n with
  | zero => rfl
  | succ n ih => rw [show zeros (n + 1) = 0 :: zeros n from rfl, unle_cons, ih]; rfl

/-! ## Slices and writes -/

theorem slice_length (S : List Byte) (a n : Nat) : (slice S a n).length = min n (S.length - a) := by
  simp [slice]

theorem slice_length_of_le {S : List Byte} {a n : Nat} (h : a + n ≤ S.length) : (slice S a n).length = n := by
  rw [slice_length]; omega

theorem slice_append_left {S T : List Byte} {a n : Nat} (h : a + n ≤ S.length) :
    slice (S ++ T) a n = slice S a n := by
  rw [slice, slice, List.drop_append_of_le_length (by omega), List.take_append_of_le_length (by simp; omega)]

theorem slice_append_right {S T : List Byte} {a n : Nat} (h : S.length ≤ a) :
    slice (S ++ T) a n = slice T (a - S.length) n := by
  rw [slice, slice, List.drop_append, List.drop_eq_nil_of_le h, List.nil_append]

theorem slice_append_exact (S T U : List Byte) : slice (S ++ (T ++ U)) S.length T.length = T := by
  rw [slice_append_right le_rfl, Nat.sub_self, slice, List.drop_zero, List.take_left]

theorem slice_take {S : List Byte} {a n m : Nat} (h : a + n ≤ m) : slice (S.take m) a n = slice S a n := by
  rw [slice, slice, List.drop_take, List.take_take, min_eq_left (by omega)]

theorem slice_zero_left (S : List Byte) (n : Nat) : slice S 0 n = S.take n := rfl

theorem slice_slice {S : List Byte} {a n b m : Nat} (h : b + m ≤ n) :
    slice (slice S a n) b m = slice S (a + b) m := by
  rw [slice, slice, slice, List.drop_take, List.drop_drop, List.take_take, min_eq_left (by omega)]

theorem slice_add (S : List Byte) (a m n : Nat) : slice S a (m + n) = slice S a m ++ slice S (a + m) n := by
  rw [slice, slice, slice, List.take_add, List.drop_drop]

theorem byteAt_eq_getElem {S : List Byte} {i : Nat} (h : i < S.length) : byteAt S i = S[i] := by
  simp [byteAt, h]

theorem byteAt_append_left {S T : List Byte} {i : Nat} (h : i < S.length) : byteAt (S ++ T) i = byteAt S i := by
  simp [byteAt, List.getElem?_append_left h]

theorem byteAt_append_right {S T : List Byte} {i : Nat} (h : S.length ≤ i) :
    byteAt (S ++ T) i = byteAt T (i - S.length) := by
  simp [byteAt, List.getElem?_append_right h]

theorem byteAt_take {S : List Byte} {i n : Nat} (h : i < n) : byteAt (S.take n) i = byteAt S i := by
  simp [byteAt, h]

theorem byteAt_zeros (n i : Nat) : byteAt (zeros n) i = 0 := by
  simp only [byteAt, zeros, List.getD_eq_getElem?_getD, List.getElem?_replicate]
  split <;> rfl

@[simp] theorem byteAt_cons_zero (b : Byte) (S : List Byte) : byteAt (b :: S) 0 = b := rfl

@[simp] theorem byteAt_cons_succ (b : Byte) (S : List Byte) (i : Nat) : byteAt (b :: S) (i + 1) = byteAt S i := rfl

theorem ext_byteAt {S T : List Byte} (hl : S.length = T.length) (h : ∀ i, i < S.length → byteAt S i = byteAt T i) :
    S = T := by
  refine List.ext_getElem hl fun i h1 h2 => ?_
  rw [← byteAt_eq_getElem h1, ← byteAt_eq_getElem h2, h i h1]

theorem byteAt_slice {S : List Byte} {a n i : Nat} (h : i < n) : byteAt (slice S a n) i = byteAt S (a + i) := by
  simp [byteAt, slice, h]

/-- Two sequences that agree on a range have the same slice there. -/
theorem slice_congr {S T : List Byte} {a n : Nat} (hl : S.length = T.length)
    (h : ∀ i, a ≤ i → i < a + n → byteAt S i = byteAt T i) : slice S a n = slice T a n := by
  refine ext_byteAt (by rw [slice_length, slice_length, hl]) fun i hi => ?_
  have hn : i < n := by rw [slice_length] at hi; omega
  rw [byteAt_slice hn, byteAt_slice hn, h (a + i) (by omega) (by omega)]

@[simp] theorem writeAt_length {F : List Byte} {a : Nat} {bs : List Byte} (h : a + bs.length ≤ F.length) :
    (writeAt F a bs).length = F.length := by
  simp [writeAt]; omega

theorem slice_writeAt_self {F : List Byte} {a : Nat} {bs : List Byte} (h : a ≤ F.length) :
    slice (writeAt F a bs) a bs.length = bs := by
  have := slice_append_exact (F.take a) bs (F.drop (a + bs.length))
  rwa [List.length_take, min_eq_left h, ← List.append_assoc] at this

theorem byteAt_writeAt_of_lt {F : List Byte} {a i : Nat} {bs : List Byte} (h : i < a) (hF : a ≤ F.length) :
    byteAt (writeAt F a bs) i = byteAt F i := by
  rw [writeAt, List.append_assoc, byteAt_append_left (by simp; omega), byteAt_take h]

theorem byteAt_writeAt_of_ge {F : List Byte} {a i : Nat} {bs : List Byte} (h : a + bs.length ≤ i)
    (hF : a ≤ F.length) : byteAt (writeAt F a bs) i = byteAt F i := by
  have hl : (F.take a ++ bs).length = a + bs.length := by simp; omega
  rw [writeAt, byteAt_append_right (by omega), hl]
  simp only [byteAt, List.getD_eq_getElem?_getD, List.getElem?_drop]
  congr 2
  omega

theorem memRead_memWrite {F : List Byte} {a n v : Nat} (h : a ≤ F.length) :
    memRead (memWrite F a n v) a n = v % 2 ^ (8 * n) := by
  have := slice_writeAt_self (F := F) (bs := le n v) h
  rw [le_length] at this
  rw [memRead, memWrite, this, unle_le]

theorem memRead_lt (F : List Byte) (a n : Nat) : memRead F a n < 2 ^ (8 * n) := by
  refine lt_of_lt_of_le (unle_lt _) (Nat.pow_le_pow_right (by norm_num) ?_)
  rw [slice_length]; omega

theorem memRead_two (F : List Byte) (a : Nat) :
    memRead F a 2 = (byteAt F a).toNat + 256 * (byteAt F (a + 1)).toNat := by
  unfold memRead slice
  rcases h : F.drop a with _ | ⟨x, _ | ⟨y, ys⟩⟩
  · have hl : F.length ≤ a := List.drop_eq_nil_iff.mp h
    simp [byteAt, List.getElem?_eq_none hl, List.getElem?_eq_none (show F.length ≤ a + 1 by omega)]
  · have hx : F[a]? = some x := by rw [← List.head?_drop, h]; rfl
    have hy : F[a + 1]? = none := by
      have hl := congrArg List.length h
      simp at hl
      rw [List.getElem?_eq_none]; omega
    simp [byteAt, hx, hy, unle]
  · have hx : F[a]? = some x := by rw [← List.head?_drop, h]; rfl
    have hy : F[a + 1]? = some y := by
      have := congrArg List.tail h
      rw [List.tail_drop] at this
      rw [← List.head?_drop, this]; rfl
    simp [byteAt, hx, hy, unle]

/-! ## The header -/

theorem packHeader_toNat (id : BitVec 6) (len : BitVec 10) :
    (packHeader id len).toNat = id.toNat * 1024 + len.toNat := by
  have hi := id.isLt
  have hl := len.isLt
  have h := Nat.two_pow_add_eq_or_of_lt hl id.toNat
  have hs : id.toNat <<< 10 % 65536 = 2 ^ 10 * id.toNat := by rw [Nat.shiftLeft_eq]; omega
  simp only [packHeader, BitVec.toNat_or, BitVec.toNat_shiftLeft, BitVec.toNat_setWidth]
  norm_num [Nat.mod_eq_of_lt (show id.toNat < 65536 by omega), Nat.mod_eq_of_lt (show len.toNat < 65536 by omega)]
  rw [hs, ← h]
  ring

theorem headerLen_toNat (hdr : BitVec 16) : (headerLen hdr).toNat = hdr.toNat % 1024 := by
  have h := Nat.and_two_pow_sub_one_eq_mod (hdr.toNat % 1024) 10
  norm_num at h
  simp [headerLen, h]

theorem headerId_toNat (hdr : BitVec 16) : (headerId hdr).toNat = hdr.toNat / 1024 := by
  have := hdr.isLt
  simp only [headerId, BitVec.toNat_setWidth, BitVec.toNat_ushiftRight, Nat.shiftRight_eq_div_pow]
  omega

end Sys2Proof.Machine
end

