-- ==== Sys2Proof/Laws/Chunk.lean ====
section
/-! SUPPORT. Laws of a frame: what the encoder's writes make it, and what each field the validator reads is in terms
of bytes. -/

namespace Sys2Proof.Machine

/-! The layout's constants, the same in both profiles or bounded alike. -/

theorem ckOff_le (p : Profile) : p.layout.ckOff + p.layout.cksumBytes ≤ 1024 := by cases p <;> decide

theorem ckOff_eq (p : Profile) : p.layout.ckOff = 3 + p.layout.dataCap := by cases p <;> rfl

theorem ckEnd_eq (p : Profile) : p.layout.ckOff + p.layout.cksumBytes = 1023 := by cases p <;> rfl

theorem dataCap_le (p : Profile) : p.layout.dataCap ≤ 1018 := by cases p <;> decide

theorem dataOff_eq (p : Profile) : p.layout.dataOff = 3 := by cases p <;> rfl

theorem prefixBytes_eq (p : Profile) : p.layout.prefixBytes = 4 := by cases p <;> rfl

theorem contentOff_eq (p : Profile) : contentOff p.layout = 7 := by cases p <;> rfl

theorem contentCap_add (p : Profile) : p.layout.contentCap + 4 = p.layout.dataCap := by cases p <;> rfl

theorem contentCap_pos (p : Profile) : 0 < p.layout.contentCap := by cases p <;> decide

theorem layout_eq (s : State) : s.layout = s.config.profile.layout := rfl

theorem chunkSize_eq (s : State) : s.layout.chunkSize = 1024 := by
  unfold State.layout Config.layout; cases s.config.profile <;> rfl

/-! The encoder's writes are the chunk's fields in order. -/

theorem writeAt_append {A B C bs : List Byte} {a : Nat} (ha : A.length = a) (hb : B.length = bs.length) :
    writeAt (A ++ (B ++ C)) a bs = A ++ (bs ++ C) := by
  subst ha
  rw [writeAt, List.take_left, List.append_assoc]
  congr 2
  rw [← hb, ← List.append_assoc, ← List.length_append, List.drop_left]

theorem chunkBytes_length (p : Profile) (id : BitVec 6) (off : Word) (content : List Byte)
    (h : content.length ≤ p.layout.contentCap) : (chunkBytes p.layout id off content).length = 1024 := by
  cases p <;> simp [chunkBytes, Profile.layout] at h ⊢ <;> omega

theorem buildFrame_eq (p : Profile) (id : BitVec 6) (off : Word) (content : List Byte)
    (h : content.length ≤ p.layout.contentCap) :
    buildFrame p.layout id off content = chunkBytes p.layout id off content := by
  have hn : content.length ≤ 1014 := by cases p <;> simp [Profile.layout] at h <;> omega
  have key : ∀ (cap ckb : Nat), cap + ckb = 1020 → content.length + 4 ≤ cap → ∀ L : Layout,
      L = ⟨1024, 0, 1, 3, cap, 4, cap - 4, ckb, 3 + cap, 1023⟩ →
      buildFrame L id off content = chunkBytes L id off content := by
    rintro cap ckb hc hcap L rfl
    unfold buildFrame chunkBytes memWrite encodedLen contentOff reduceChecksum
    simp only
    have z : zeros 1024 = [] ++ (zeros 1 ++ (zeros 2 ++ (zeros 4 ++ (zeros content.length ++
        (zeros (cap - (content.length + 4)) ++ (zeros ckb ++ (zeros 1 ++ []))))))) := by
      simp only [List.nil_append, List.append_nil, ← zeros_add]
      congr 1; omega
    rw [z, writeAt_append (A := []) (a := 0) rfl (by simp), List.nil_append,
      writeAt_append (A := [startMark]) (a := 1) rfl (by simp),
      ← List.append_assoc [startMark],
      writeAt_append (A := [startMark] ++ le 2 _) (a := 3) (by simp) (by simp),
      ← List.append_assoc _ (le 4 _),
      writeAt_append (A := [startMark] ++ le 2 _ ++ le 4 _) (a := 3 + 4) (by simp) (by simp)]
    generalize hH : ([startMark] ++ le 2 (packHeader id (BitVec.ofNat 10 (content.length + 4))).toNat) = H
    have hHl : H.length = 3 := by simp [← hH]
    generalize hP : le 4 off.toNat = P
    have hPl : P.length = 4 := by simp [← hP]
    generalize hR : zeros (cap - (content.length + 4)) ++ (zeros ckb ++ (zeros 1 ++ [])) = R
    have hs : slice (H ++ P ++ (content ++ R)) 3 (content.length + 4) = P ++ content := by
      have := slice_append_exact H (P ++ content) R
      rw [hHl] at this
      rw [show H ++ P ++ (content ++ R) = H ++ (P ++ content ++ R) by simp]
      rwa [List.length_append, hPl, Nat.add_comm] at this
    rw [hs, ← hR]
    rw [show H ++ P ++ (content ++ (zeros (cap - (content.length + 4)) ++ (zeros ckb ++ (zeros 1 ++ [])))) =
      (H ++ P ++ content ++ zeros (cap - (content.length + 4))) ++ (zeros ckb ++ (zeros 1 ++ [])) by simp,
      writeAt_append (A := H ++ P ++ content ++ zeros (cap - (content.length + 4))) (a := 3 + cap)
        (by simp [hHl, hPl]; omega) (by simp)]
    rw [← List.append_assoc _ (le ckb _),
      writeAt_append (A := H ++ P ++ content ++ zeros (cap - (content.length + 4)) ++ le ckb _) (a := 1023)
        (by simp [hHl, hPl]; omega) (by simp)]
    simp
  cases p
  · exact key 1018 2 rfl (by omega) _ rfl
  · exact key 1016 4 rfl (by simp [Profile.layout] at h; omega) _ rfl

theorem memRead_take {S : List Byte} {a n m : Nat} (h : a + n ≤ m) : memRead (S.take m) a n = memRead S a n := by
  rw [memRead, slice_take h, memRead]

/-- The reads of a frame in terms of bytes, in either profile. -/
theorem frameLen_toNat (p : Profile) (F : List Byte) : (frameLen p.layout F).toNat = memRead F 1 2 % 1024 := by
  have := memRead_lt F 1 2
  rw [frameLen, headerLen_toNat, frameHeader, BitVec.toNat_ofNat]
  cases p <;> simp only [Profile.layout] <;> omega

theorem frameLen_eq (p : Profile) (F : List Byte) : frameLen p.layout F = BitVec.ofNat 10 (memRead F 1 2 % 1024) := by
  apply BitVec.eq_of_toNat_eq
  rw [frameLen_toNat, BitVec.toNat_ofNat]; omega

theorem frameId_eq (p : Profile) (F : List Byte) : frameId p.layout F = BitVec.ofNat 6 (memRead F 1 2 / 1024) := by
  have := memRead_lt F 1 2
  apply BitVec.eq_of_toNat_eq
  rw [frameId, headerId_toNat, frameHeader, BitVec.toNat_ofNat, BitVec.toNat_ofNat]
  cases p <;> simp only [Profile.layout] <;> omega

theorem frameMarkersOk_iff (p : Profile) (F : List Byte) :
    frameMarkersOk p.layout F = true ↔ byteAt F 0 = 0x02 ∧ byteAt F 1023 = 0x03 := by
  cases p <;> simp [frameMarkersOk, Profile.layout, startMark, endMark]

theorem frameLenOk_iff (p : Profile) (F : List Byte) :
    frameLenOk p.layout F = true ↔ 4 ≤ memRead F 1 2 % 1024 ∧ memRead F 1 2 % 1024 ≤ p.layout.dataCap := by
  rw [frameLenOk, frameLen_toNat, Bool.and_eq_true, decide_eq_true_iff, decide_eq_true_iff]
  cases p <;> rfl

theorem frameChecksumOk_iff (p : Profile) (F : List Byte) :
    frameChecksumOk p.layout F = true ↔
      (crc32z (slice F 3 (memRead F 1 2 % 1024))).toNat % 2 ^ (8 * p.layout.cksumBytes) =
        memRead F p.layout.ckOff p.layout.cksumBytes := by
  rw [frameChecksumOk, frameSpan, frameLen_toNat, beq_iff_eq]
  cases p <;> rfl

theorem frameContentLen_eq (p : Profile) (F : List Byte) :
    frameContentLen p.layout F = memRead F 1 2 % 1024 - 4 := by
  rw [frameContentLen, frameLen_toNat, prefixBytes_eq]

theorem frameContent_eq (p : Profile) (F : List Byte) :
    frameContent p.layout F = slice F 7 (memRead F 1 2 % 1024 - 4) := by
  rw [frameContent, frameContentLen_eq, contentOff_eq]

theorem frameOffset_eq (p : Profile) (F : List Byte) :
    frameOffset p.layout F = BitVec.ofNat 32 (memRead F 3 4) := by
  rw [frameOffset, dataOff_eq]

theorem chunkBytes_split (L : Layout) (id : BitVec 6) (off : Word) (c : List Byte) :
    chunkBytes L id off c = [startMark] ++ (le 2 (packHeader id (BitVec.ofNat 10 (c.length + 4))).toNat ++
      (le 4 off.toNat ++ (c ++ (zeros (L.dataCap - (c.length + 4)) ++
      (le L.cksumBytes ((crc32z (le 4 off.toNat ++ c)).toNat % 2 ^ (8 * L.cksumBytes)) ++ [endMark]))))) := by
  simp [chunkBytes]

theorem memRead_append_exact (A B C : List Byte) {a n : Nat} (ha : A.length = a) (hn : B.length = n) :
    memRead (A ++ (B ++ C)) a n = unle B := by
  subst ha hn; rw [memRead, slice_append_exact]

variable (p : Profile) (id : BitVec 6) (off : Word) (c : List Byte)

theorem chunkBytes_header (h : c.length ≤ p.layout.contentCap) :
    memRead (chunkBytes p.layout id off c) 1 2 = id.toNat * 1024 + (c.length + 4) := by
  have : c.length ≤ 1014 := by cases p <;> simp [Profile.layout] at h <;> omega
  rw [chunkBytes_split, memRead_append_exact [startMark] _ _ (a := 1) rfl (by simp), unle_le_of_lt (BitVec.isLt _), packHeader_toNat,
    BitVec.toNat_ofNat, Nat.mod_eq_of_lt (by omega)]

theorem chunkBytes_offset : memRead (chunkBytes p.layout id off c) 3 4 = off.toNat := by
  rw [chunkBytes_split, ← List.append_assoc, memRead_append_exact _ _ _ (by simp) (by simp), unle_le_of_lt off.isLt]

theorem chunkBytes_span : slice (chunkBytes p.layout id off c) 3 (c.length + 4) = le 4 off.toNat ++ c := by
  have := slice_append_exact ([startMark] ++ le 2 (packHeader id (BitVec.ofNat 10 (c.length + 4))).toNat)
    (le 4 off.toNat ++ c) (zeros (p.layout.dataCap - (c.length + 4)) ++
      (le p.layout.cksumBytes ((crc32z (le 4 off.toNat ++ c)).toNat % 2 ^ (8 * p.layout.cksumBytes)) ++ [endMark]))
  rw [chunkBytes_split]
  simpa [Nat.add_comm] using this

theorem chunkBytes_content : slice (chunkBytes p.layout id off c) 7 c.length = c := by
  have := slice_append_exact ([startMark] ++ le 2 (packHeader id (BitVec.ofNat 10 (c.length + 4))).toNat ++
    le 4 off.toNat) c (zeros (p.layout.dataCap - (c.length + 4)) ++
      (le p.layout.cksumBytes ((crc32z (le 4 off.toNat ++ c)).toNat % 2 ^ (8 * p.layout.cksumBytes)) ++ [endMark]))
  rw [chunkBytes_split]
  simpa using this

theorem chunkBytes_checksum (h : c.length ≤ p.layout.contentCap) :
    memRead (chunkBytes p.layout id off c) p.layout.ckOff p.layout.cksumBytes =
      (crc32z (le 4 off.toNat ++ c)).toNat % 2 ^ (8 * p.layout.cksumBytes) := by
  have hl : ([startMark] ++ le 2 (packHeader id (BitVec.ofNat 10 (c.length + 4))).toNat ++ le 4 off.toNat ++ c ++
    zeros (p.layout.dataCap - (c.length + 4))).length = p.layout.ckOff := by
    cases p <;> simp [Profile.layout] at h ⊢ <;> omega
  have e : chunkBytes p.layout id off c = ([startMark] ++ le 2 (packHeader id (BitVec.ofNat 10 (c.length + 4))).toNat ++ le 4 off.toNat ++ c ++
    zeros (p.layout.dataCap - (c.length + 4))) ++ (le p.layout.cksumBytes ((crc32z (le 4 off.toNat ++ c)).toNat % 2 ^ (8 * p.layout.cksumBytes)) ++ [endMark]) := by
    simp [chunkBytes]
  rw [e, memRead_append_exact _ _ _ hl (by simp), unle_le_of_lt (Nat.mod_lt _ (by positivity))]

theorem chunkBytes_first : byteAt (chunkBytes p.layout id off c) 0 = 0x02 := by
  rw [chunkBytes_split]; rfl

theorem chunkBytes_last (h : c.length ≤ p.layout.contentCap) : byteAt (chunkBytes p.layout id off c) 1023 = 0x03 := by
  have hl := chunkBytes_length p id off c h
  unfold chunkBytes at hl ⊢
  rw [byteAt_append_right] <;> rw [List.length_append] at hl <;> simp only [List.length_singleton] at hl
  · rw [show 1023 - _ = 0 from by omega]; rfl
  · omega

end Sys2Proof.Machine
end

