-- ==== Sys2Proof/Laws/Crc.lean ====
section
/-! SUPPORT. Laws of the CRC unit's bit and byte steps: they are linear, injective, and do nothing to zero. -/

namespace Sys2Proof.Machine

@[simp] theorem word_xor_zero (a : Word) : a ^^^ 0 = a := BitVec.xor_zero

@[simp] theorem word_zero_xor (a : Word) : 0 ^^^ a = a := BitVec.zero_xor

theorem crcBit_zero : crcBit 0 = 0 := by decide

theorem crcBit_xor (a b : Word) : crcBit (a ^^^ b) = crcBit a ^^^ crcBit b := by
  have hs : (a ^^^ b) >>> 1 = (a >>> 1) ^^^ (b >>> 1) := BitVec.ushiftRight_xor_distrib a b 1
  unfold crcBit
  rw [BitVec.getLsbD_xor, hs]
  rcases a.getLsbD 0 <;> rcases b.getLsbD 0 <;> simp
  · rw [BitVec.xor_assoc]
  · rw [BitVec.xor_assoc, BitVec.xor_comm (b >>> 1), ← BitVec.xor_assoc]
  · rw [BitVec.xor_comm (b >>> 1), BitVec.xor_assoc, ← BitVec.xor_assoc crcPoly]
    simp

/-- The bit step can be undone: the polynomial's bit 31 tells which branch was taken. -/
theorem crcBit_eq_zero {a : Word} (h : crcBit a = 0) : a = 0 := by
  unfold crcBit at h
  have h31 : (a >>> 1).getLsbD 31 = false := by simp
  split at h
  · have : ((a >>> 1) ^^^ crcPoly).getLsbD 31 = false := by rw [h]; rfl
    rw [BitVec.getLsbD_xor, h31] at this
    exact absurd this (by decide)
  · rename_i h0
    have hn := congrArg BitVec.toNat h
    simp only [BitVec.toNat_ushiftRight, Nat.shiftRight_eq_div_pow] at hn
    have hn : a.toNat / 2 ^ 1 = 0 := hn
    have h0' : a.toNat % 2 = 0 := by
      simp only [BitVec.getLsbD, Nat.testBit_zero, decide_eq_true_eq] at h0
      omega
    apply BitVec.eq_of_toNat_eq
    change a.toNat = 0
    omega

theorem crcBits_add (m n : Nat) (a : Word) : crcBits (m + n) a = crcBits n (crcBits m a) := by
  induction m generalizing a with
  | zero => rw [Nat.zero_add]; rfl
  | succ m ih => rw [Nat.succ_add]; exact ih (crcBit a)

theorem crcBits_zero (n : Nat) : crcBits n 0 = 0 := by
  induction n with
  | zero => rfl
  | succ n ih => rw [crcBits, crcBit_zero, ih]

theorem crcBits_xor (n : Nat) (a b : Word) : crcBits n (a ^^^ b) = crcBits n a ^^^ crcBits n b := by
  induction n generalizing a b with
  | zero => rfl
  | succ n ih => rw [crcBits, crcBit_xor, ih]; rfl

theorem crcBits_eq_zero {n : Nat} {a : Word} (h : crcBits n a = 0) : a = 0 := by
  induction n generalizing a with
  | zero => exact h
  | succ n ih => exact crcBit_eq_zero (ih h)

theorem crcByte_zero_zero : crcByte 0 0 = 0 := by decide

theorem crcByte_xor (a a' : Word) (b b' : Byte) :
    crcByte (a ^^^ a') (b ^^^ b') = crcByte a b ^^^ crcByte a' b' := by
  unfold crcByte
  rw [← crcBits_xor, BitVec.setWidth_xor]
  congr 1
  rw [BitVec.xor_assoc, BitVec.xor_assoc, ← BitVec.xor_assoc a', BitVec.xor_comm a', BitVec.xor_assoc]

@[simp] theorem crcFrom_nil (a : Word) : crcFrom a [] = a := rfl

@[simp] theorem crcFrom_cons (a : Word) (b : Byte) (S : List Byte) :
    crcFrom a (b :: S) = crcFrom (crcByte a b) S := rfl

theorem crcFrom_append (a : Word) (S T : List Byte) : crcFrom a (S ++ T) = crcFrom (crcFrom a S) T :=
  List.foldl_append

theorem crcFrom_zeros (n : Nat) : crcFrom 0 (zeros n) = 0 := by
  induction n with
  | zero => rfl
  | succ n ih => rw [show zeros (n + 1) = 0 :: zeros n from rfl, crcFrom_cons, crcByte_zero_zero, ih]

/-- Linearity from any two accumulators, over spans of equal length. -/
theorem crcFrom_xor (a a' : Word) {S T : List Byte} (h : S.length = T.length) :
    crcFrom (a ^^^ a') (List.zipWith (· ^^^ ·) S T) = crcFrom a S ^^^ crcFrom a' T := by
  induction S generalizing a a' T with
  | nil => cases T with
    | nil => rfl
    | cons => simp at h
  | cons s S ih => cases T with
    | nil => simp at h
    | cons t T =>
      rw [List.zipWith_cons_cons, crcFrom_cons, crcByte_xor, ih _ _ (by simpa using h)]
      rfl

/-- Zero bytes at the end act on the accumulator by bit steps alone. -/
theorem crcFrom_zeros_eq_crcBits (n : Nat) (a : Word) : crcFrom a (zeros n) = crcBits (8 * n) a := by
  induction n generalizing a with
  | zero => rfl
  | succ n ih =>
    rw [show zeros (n + 1) = 0 :: zeros n from rfl, crcFrom_cons, ih, show 8 * (n + 1) = 8 + 8 * n by ring,
      crcBits_add]
    simp [crcByte]

/-- Bit steps over zero low bits only shift. -/
theorem crcBits_shift (n : Nat) (a : Word) (h : a.toNat % 2 ^ n = 0) : crcBits n a = a >>> n := by
  induction n generalizing a with
  | zero => simp [crcBits]
  | succ n ih =>
    rw [pow_succ] at h
    have h2 : a.toNat % 2 = 0 := by
      have : 2 ∣ a.toNat := dvd_trans (Dvd.intro_left _ rfl) (Nat.dvd_of_mod_eq_zero h)
      omega
    have hb : crcBit a = a >>> 1 := by
      rw [crcBit, if_neg]
      simp [BitVec.getLsbD, Nat.testBit_zero, h2]
    rw [crcBits, hb, ih]
    · rw [← BitVec.shiftRight_add, Nat.add_comm]
    · rw [BitVec.toNat_ushiftRight, Nat.shiftRight_eq_div_pow, pow_one]
      have hd : 2 ^ n * 2 ∣ a.toNat := Nat.dvd_of_mod_eq_zero h
      exact Nat.mod_eq_zero_of_dvd (Nat.dvd_div_of_mul_dvd (by rwa [Nat.mul_comm]))

theorem word_split (x : Word) : x = (x.setWidth 8).setWidth 32 ^^^ ((x >>> 8) <<< 8) := by
  apply BitVec.eq_of_getLsbD_eq
  intro i hi
  simp only [BitVec.getLsbD_xor, BitVec.getLsbD_setWidth, BitVec.getLsbD_shiftLeft, BitVec.getLsbD_ushiftRight, hi]
  by_cases h : i < 8
  · simp [h]
  · simp [h, show 8 + (i - 8) = i by omega]

/-- What a span does to an accumulator, and what the accumulator contributes, apart. -/
theorem crcFrom_zero_xor (a : Word) (S : List Byte) : crcFrom a S = crcFrom 0 S ^^^ crcBits (8 * S.length) a := by
  have hz : List.zipWith (· ^^^ ·) S (zeros S.length) = S := by
    induction S with
    | nil => rfl
    | cons s S ih => simp [zeros, List.replicate_succ] at ih ⊢; exact ih
  have := crcFrom_xor 0 a (S := S) (T := zeros S.length) (by simp)
  rw [hz, word_zero_xor, crcFrom_zeros_eq_crcBits] at this
  exact this

/-- A number split into disjoint low and high bits, as words. -/
theorem word_add_eq_xor {n lo hi : Nat} (hlo : lo < 2 ^ n) (h : lo + 2 ^ n * hi < 2 ^ 32) :
    BitVec.ofNat 32 (lo + 2 ^ n * hi) = BitVec.ofNat 32 lo ^^^ BitVec.ofNat 32 (2 ^ n * hi) := by
  apply BitVec.eq_of_toNat_eq
  rw [BitVec.toNat_xor, BitVec.toNat_ofNat, BitVec.toNat_ofNat, BitVec.toNat_ofNat,
    Nat.mod_eq_of_lt h, Nat.mod_eq_of_lt (by omega), Nat.mod_eq_of_lt (by omega)]
  apply Nat.eq_of_testBit_eq
  intro i
  rw [Nat.add_comm, Nat.two_pow_add_eq_or_of_lt hlo hi, Nat.testBit_or, Nat.testBit_xor, Nat.mul_comm (2 ^ n),
    Nat.testBit_mul_two_pow]
  by_cases hi : i < n
  · simp [show ¬n ≤ i by omega]
  · have : lo.testBit i = false :=
      Nat.testBit_lt_two_pow (lt_of_lt_of_le hlo (Nat.pow_le_pow_right (by norm_num) (by omega)))
    simp [this]

/-- A span whose little-endian number fits in 32 bits acts like that word. -/
theorem crcFrom_packed (S : List Byte) (h : unle S < 2 ^ 32) :
    crcFrom 0 S = crcBits (8 * S.length) (BitVec.ofNat 32 (unle S)) := by
  induction S with
  | nil => rfl
  | cons b S ih =>
    have hb := b.isLt
    rw [unle_cons] at h
    have e : BitVec.ofNat 32 (unle (b :: S)) = b.setWidth 32 ^^^ BitVec.ofNat 32 (2 ^ 8 * unle S) := by
      rw [unle_cons, show (256 : Nat) = 2 ^ 8 from rfl, word_add_eq_xor hb h]
      congr 1
      apply BitVec.eq_of_toNat_eq
      rw [BitVec.toNat_ofNat, BitVec.toNat_setWidth]
    rw [crcFrom_cons, crcFrom_zero_xor, ih (by omega), e, List.length_cons,
      show 8 * (S.length + 1) = 8 + 8 * S.length by ring, crcBits_add, crcBits_xor 8, crcBits_xor (8 * S.length)]
    unfold crcByte
    rw [word_zero_xor, BitVec.xor_comm]
    congr 2
    rw [crcBits_shift]
    · apply BitVec.eq_of_toNat_eq
      simp only [BitVec.toNat_ushiftRight, BitVec.toNat_ofNat, Nat.shiftRight_eq_div_pow]
      omega
    · rw [BitVec.toNat_ofNat]; omega

/-- What a change in the middle of a span does to its checksum: a value of the change and its place alone. -/
theorem crc_change (A B E C : List Byte) (h : E.length = B.length) :
    crc32z (A ++ List.zipWith (· ^^^ ·) B E ++ C) =
      crc32z (A ++ B ++ C) ^^^ crcBits (8 * C.length) (crcFrom 0 E) := by
  unfold crc32z
  rw [crcFrom_append, crcFrom_append, crcFrom_append, crcFrom_append]
  have := crcFrom_xor (crcFrom crcInit A) 0 h.symm
  rw [word_xor_zero] at this
  rw [this, crcFrom_zero_xor (_ ^^^ _), crcBits_xor, ← BitVec.xor_assoc, ← crcFrom_zero_xor]

end Sys2Proof.Machine
end

