-- ==== Sys2Proof/Laws/State.lean ====
section
/-! SUPPORT. What each update of the state does to each field, and to the layout: one line each, true by rfl. -/

namespace Sys2Proof.Machine

@[simp] theorem State.fail_config (c : ResultCode) (s : State) : (s.fail c).config = s.config := rfl
@[simp] theorem State.fail_txId (c : ResultCode) (s : State) : (s.fail c).txId = s.txId := rfl
@[simp] theorem State.fail_rxCount (c : ResultCode) (s : State) : (s.fail c).rxCount = s.rxCount := rfl
@[simp] theorem State.fail_rxOffset (c : ResultCode) (s : State) : (s.fail c).rxOffset = s.rxOffset := rfl
@[simp] theorem State.fail_rxId (c : ResultCode) (s : State) : (s.fail c).rxId = s.rxId := rfl
@[simp] theorem State.fail_rxLen (c : ResultCode) (s : State) : (s.fail c).rxLen = s.rxLen := rfl
@[simp] theorem State.fail_rxStatus (c : ResultCode) (s : State) : (s.fail c).rxStatus = c.toBits := rfl
@[simp] theorem State.fail_rxSticky (c : ResultCode) (s : State) : (s.fail c).rxSticky = stickyWith s.rxSticky c := rfl
@[simp] theorem State.fail_rxHalt (c : ResultCode) (s : State) : (s.fail c).rxHalt = s.rxHalt := rfl
@[simp] theorem State.fail_sink (c : ResultCode) (s : State) : (s.fail c).sink = s.sink := rfl
@[simp] theorem State.fail_src (c : ResultCode) (s : State) : (s.fail c).src = s.src := rfl
@[simp] theorem State.fail_srcPos (c : ResultCode) (s : State) : (s.fail c).srcPos = s.srcPos := rfl
@[simp] theorem State.fail_rbuf (c : ResultCode) (s : State) : (s.fail c).rbuf = s.rbuf := rfl
@[simp] theorem State.fail_completion (c : ResultCode) (s : State) : (s.fail c).completion = s.completion := rfl
@[simp] theorem State.fail_script (c : ResultCode) (s : State) : (s.fail c).script = s.script := rfl
@[simp] theorem State.fail_layout (c : ResultCode) (s : State) : (s.fail c).layout = s.layout := rfl

@[simp] theorem State.halt_config (s : State) : (s.halt).config = s.config := rfl
@[simp] theorem State.halt_txId (s : State) : (s.halt).txId = s.txId := rfl
@[simp] theorem State.halt_rxCount (s : State) : (s.halt).rxCount = s.rxCount := rfl
@[simp] theorem State.halt_rxOffset (s : State) : (s.halt).rxOffset = s.rxOffset := rfl
@[simp] theorem State.halt_rxId (s : State) : (s.halt).rxId = s.rxId := rfl
@[simp] theorem State.halt_rxLen (s : State) : (s.halt).rxLen = s.rxLen := rfl
@[simp] theorem State.halt_rxStatus (s : State) : (s.halt).rxStatus = s.rxStatus := rfl
@[simp] theorem State.halt_rxSticky (s : State) : (s.halt).rxSticky = s.rxSticky := rfl
@[simp] theorem State.halt_rxHalt (s : State) : (s.halt).rxHalt = 1 := rfl
@[simp] theorem State.halt_sink (s : State) : (s.halt).sink = s.sink := rfl
@[simp] theorem State.halt_src (s : State) : (s.halt).src = s.src := rfl
@[simp] theorem State.halt_srcPos (s : State) : (s.halt).srcPos = s.srcPos := rfl
@[simp] theorem State.halt_rbuf (s : State) : (s.halt).rbuf = s.rbuf := rfl
@[simp] theorem State.halt_completion (s : State) : (s.halt).completion = s.completion := rfl
@[simp] theorem State.halt_script (s : State) : (s.halt).script = s.script := rfl
@[simp] theorem State.halt_layout (s : State) : (s.halt).layout = s.layout := rfl

@[simp] theorem State.succeed_config (v : ResultValue) (s : State) : (s.succeed v).config = s.config := rfl
@[simp] theorem State.succeed_txId (v : ResultValue) (s : State) : (s.succeed v).txId = s.txId := rfl
@[simp] theorem State.succeed_rxCount (v : ResultValue) (s : State) : (s.succeed v).rxCount = s.rxCount := rfl
@[simp] theorem State.succeed_rxOffset (v : ResultValue) (s : State) : (s.succeed v).rxOffset = s.rxOffset := rfl
@[simp] theorem State.succeed_rxId (v : ResultValue) (s : State) : (s.succeed v).rxId = s.rxId := rfl
@[simp] theorem State.succeed_rxLen (v : ResultValue) (s : State) : (s.succeed v).rxLen = s.rxLen := rfl
@[simp] theorem State.succeed_rxStatus (v : ResultValue) (s : State) : (s.succeed v).rxStatus = s.rxStatus := rfl
@[simp] theorem State.succeed_rxSticky (v : ResultValue) (s : State) : (s.succeed v).rxSticky = s.rxSticky := rfl
@[simp] theorem State.succeed_rxHalt (v : ResultValue) (s : State) : (s.succeed v).rxHalt = s.rxHalt := rfl
@[simp] theorem State.succeed_sink (v : ResultValue) (s : State) : (s.succeed v).sink = s.sink := rfl
@[simp] theorem State.succeed_src (v : ResultValue) (s : State) : (s.succeed v).src = s.src := rfl
@[simp] theorem State.succeed_srcPos (v : ResultValue) (s : State) : (s.succeed v).srcPos = s.srcPos := rfl
@[simp] theorem State.succeed_rbuf (v : ResultValue) (s : State) : (s.succeed v).rbuf = s.rbuf := rfl
@[simp] theorem State.succeed_completion (v : ResultValue) (s : State) : (s.succeed v).completion = some { code := .ok, value := v } := rfl
@[simp] theorem State.succeed_script (v : ResultValue) (s : State) : (s.succeed v).script = s.script := rfl
@[simp] theorem State.succeed_layout (v : ResultValue) (s : State) : (s.succeed v).layout = s.layout := rfl

@[simp] theorem State.raise_config (c : ResultCode) (s : State) : (s.raise c).config = s.config := rfl
@[simp] theorem State.raise_txId (c : ResultCode) (s : State) : (s.raise c).txId = s.txId := rfl
@[simp] theorem State.raise_rxCount (c : ResultCode) (s : State) : (s.raise c).rxCount = s.rxCount := rfl
@[simp] theorem State.raise_rxOffset (c : ResultCode) (s : State) : (s.raise c).rxOffset = s.rxOffset := rfl
@[simp] theorem State.raise_rxId (c : ResultCode) (s : State) : (s.raise c).rxId = s.rxId := rfl
@[simp] theorem State.raise_rxLen (c : ResultCode) (s : State) : (s.raise c).rxLen = s.rxLen := rfl
@[simp] theorem State.raise_rxStatus (c : ResultCode) (s : State) : (s.raise c).rxStatus = s.rxStatus := rfl
@[simp] theorem State.raise_rxSticky (c : ResultCode) (s : State) : (s.raise c).rxSticky = s.rxSticky := rfl
@[simp] theorem State.raise_rxHalt (c : ResultCode) (s : State) : (s.raise c).rxHalt = s.rxHalt := rfl
@[simp] theorem State.raise_sink (c : ResultCode) (s : State) : (s.raise c).sink = s.sink := rfl
@[simp] theorem State.raise_src (c : ResultCode) (s : State) : (s.raise c).src = s.src := rfl
@[simp] theorem State.raise_srcPos (c : ResultCode) (s : State) : (s.raise c).srcPos = s.srcPos := rfl
@[simp] theorem State.raise_rbuf (c : ResultCode) (s : State) : (s.raise c).rbuf = s.rbuf := rfl
@[simp] theorem State.raise_completion (c : ResultCode) (s : State) : (s.raise c).completion = some { code := c, value := .none } := rfl
@[simp] theorem State.raise_script (c : ResultCode) (s : State) : (s.raise c).script = s.script := rfl
@[simp] theorem State.raise_layout (c : ResultCode) (s : State) : (s.raise c).layout = s.layout := rfl

@[simp] theorem State.failRaise_config (c : ResultCode) (s : State) : (s.failRaise c).config = s.config := rfl
@[simp] theorem State.failRaise_txId (c : ResultCode) (s : State) : (s.failRaise c).txId = s.txId := rfl
@[simp] theorem State.failRaise_rxCount (c : ResultCode) (s : State) : (s.failRaise c).rxCount = s.rxCount := rfl
@[simp] theorem State.failRaise_rxOffset (c : ResultCode) (s : State) : (s.failRaise c).rxOffset = s.rxOffset := rfl
@[simp] theorem State.failRaise_rxId (c : ResultCode) (s : State) : (s.failRaise c).rxId = s.rxId := rfl
@[simp] theorem State.failRaise_rxLen (c : ResultCode) (s : State) : (s.failRaise c).rxLen = s.rxLen := rfl
@[simp] theorem State.failRaise_rxStatus (c : ResultCode) (s : State) : (s.failRaise c).rxStatus = c.toBits := rfl
@[simp] theorem State.failRaise_rxSticky (c : ResultCode) (s : State) : (s.failRaise c).rxSticky = stickyWith s.rxSticky c := rfl
@[simp] theorem State.failRaise_rxHalt (c : ResultCode) (s : State) : (s.failRaise c).rxHalt = s.rxHalt := rfl
@[simp] theorem State.failRaise_sink (c : ResultCode) (s : State) : (s.failRaise c).sink = s.sink := rfl
@[simp] theorem State.failRaise_src (c : ResultCode) (s : State) : (s.failRaise c).src = s.src := rfl
@[simp] theorem State.failRaise_srcPos (c : ResultCode) (s : State) : (s.failRaise c).srcPos = s.srcPos := rfl
@[simp] theorem State.failRaise_rbuf (c : ResultCode) (s : State) : (s.failRaise c).rbuf = s.rbuf := rfl
@[simp] theorem State.failRaise_completion (c : ResultCode) (s : State) : (s.failRaise c).completion = some { code := c, value := .none } := rfl
@[simp] theorem State.failRaise_script (c : ResultCode) (s : State) : (s.failRaise c).script = s.script := rfl
@[simp] theorem State.failRaise_layout (c : ResultCode) (s : State) : (s.failRaise c).layout = s.layout := rfl

@[simp] theorem State.appendSink_config (bs : List Byte) (s : State) : (s.appendSink bs).config = s.config := rfl
@[simp] theorem State.appendSink_txId (bs : List Byte) (s : State) : (s.appendSink bs).txId = s.txId := rfl
@[simp] theorem State.appendSink_rxCount (bs : List Byte) (s : State) : (s.appendSink bs).rxCount = s.rxCount := rfl
@[simp] theorem State.appendSink_rxOffset (bs : List Byte) (s : State) : (s.appendSink bs).rxOffset = s.rxOffset := rfl
@[simp] theorem State.appendSink_rxId (bs : List Byte) (s : State) : (s.appendSink bs).rxId = s.rxId := rfl
@[simp] theorem State.appendSink_rxLen (bs : List Byte) (s : State) : (s.appendSink bs).rxLen = s.rxLen := rfl
@[simp] theorem State.appendSink_rxStatus (bs : List Byte) (s : State) : (s.appendSink bs).rxStatus = s.rxStatus := rfl
@[simp] theorem State.appendSink_rxSticky (bs : List Byte) (s : State) : (s.appendSink bs).rxSticky = s.rxSticky := rfl
@[simp] theorem State.appendSink_rxHalt (bs : List Byte) (s : State) : (s.appendSink bs).rxHalt = s.rxHalt := rfl
@[simp] theorem State.appendSink_sink (bs : List Byte) (s : State) : (s.appendSink bs).sink = s.sink ++ bs := rfl
@[simp] theorem State.appendSink_src (bs : List Byte) (s : State) : (s.appendSink bs).src = s.src := rfl
@[simp] theorem State.appendSink_srcPos (bs : List Byte) (s : State) : (s.appendSink bs).srcPos = s.srcPos := rfl
@[simp] theorem State.appendSink_rbuf (bs : List Byte) (s : State) : (s.appendSink bs).rbuf = s.rbuf := rfl
@[simp] theorem State.appendSink_completion (bs : List Byte) (s : State) : (s.appendSink bs).completion = s.completion := rfl
@[simp] theorem State.appendSink_script (bs : List Byte) (s : State) : (s.appendSink bs).script = s.script := rfl
@[simp] theorem State.appendSink_layout (bs : List Byte) (s : State) : (s.appendSink bs).layout = s.layout := rfl

@[simp] theorem State.appendRbuf_config (bs : List Byte) (s : State) : (s.appendRbuf bs).config = s.config := rfl
@[simp] theorem State.appendRbuf_txId (bs : List Byte) (s : State) : (s.appendRbuf bs).txId = s.txId := rfl
@[simp] theorem State.appendRbuf_rxCount (bs : List Byte) (s : State) : (s.appendRbuf bs).rxCount = s.rxCount := rfl
@[simp] theorem State.appendRbuf_rxOffset (bs : List Byte) (s : State) : (s.appendRbuf bs).rxOffset = s.rxOffset := rfl
@[simp] theorem State.appendRbuf_rxId (bs : List Byte) (s : State) : (s.appendRbuf bs).rxId = s.rxId := rfl
@[simp] theorem State.appendRbuf_rxLen (bs : List Byte) (s : State) : (s.appendRbuf bs).rxLen = s.rxLen := rfl
@[simp] theorem State.appendRbuf_rxStatus (bs : List Byte) (s : State) : (s.appendRbuf bs).rxStatus = s.rxStatus := rfl
@[simp] theorem State.appendRbuf_rxSticky (bs : List Byte) (s : State) : (s.appendRbuf bs).rxSticky = s.rxSticky := rfl
@[simp] theorem State.appendRbuf_rxHalt (bs : List Byte) (s : State) : (s.appendRbuf bs).rxHalt = s.rxHalt := rfl
@[simp] theorem State.appendRbuf_sink (bs : List Byte) (s : State) : (s.appendRbuf bs).sink = s.sink := rfl
@[simp] theorem State.appendRbuf_src (bs : List Byte) (s : State) : (s.appendRbuf bs).src = s.src := rfl
@[simp] theorem State.appendRbuf_srcPos (bs : List Byte) (s : State) : (s.appendRbuf bs).srcPos = s.srcPos := rfl
@[simp] theorem State.appendRbuf_rbuf (bs : List Byte) (s : State) : (s.appendRbuf bs).rbuf = s.rbuf ++ bs := rfl
@[simp] theorem State.appendRbuf_completion (bs : List Byte) (s : State) : (s.appendRbuf bs).completion = s.completion := rfl
@[simp] theorem State.appendRbuf_script (bs : List Byte) (s : State) : (s.appendRbuf bs).script = s.script := rfl
@[simp] theorem State.appendRbuf_layout (bs : List Byte) (s : State) : (s.appendRbuf bs).layout = s.layout := rfl

@[simp] theorem State.supplySrc_config (bs : List Byte) (s : State) : (s.supplySrc bs).config = s.config := rfl
@[simp] theorem State.supplySrc_txId (bs : List Byte) (s : State) : (s.supplySrc bs).txId = s.txId := rfl
@[simp] theorem State.supplySrc_rxCount (bs : List Byte) (s : State) : (s.supplySrc bs).rxCount = s.rxCount := rfl
@[simp] theorem State.supplySrc_rxOffset (bs : List Byte) (s : State) : (s.supplySrc bs).rxOffset = s.rxOffset := rfl
@[simp] theorem State.supplySrc_rxId (bs : List Byte) (s : State) : (s.supplySrc bs).rxId = s.rxId := rfl
@[simp] theorem State.supplySrc_rxLen (bs : List Byte) (s : State) : (s.supplySrc bs).rxLen = s.rxLen := rfl
@[simp] theorem State.supplySrc_rxStatus (bs : List Byte) (s : State) : (s.supplySrc bs).rxStatus = s.rxStatus := rfl
@[simp] theorem State.supplySrc_rxSticky (bs : List Byte) (s : State) : (s.supplySrc bs).rxSticky = s.rxSticky := rfl
@[simp] theorem State.supplySrc_rxHalt (bs : List Byte) (s : State) : (s.supplySrc bs).rxHalt = s.rxHalt := rfl
@[simp] theorem State.supplySrc_sink (bs : List Byte) (s : State) : (s.supplySrc bs).sink = s.sink := rfl
@[simp] theorem State.supplySrc_src (bs : List Byte) (s : State) : (s.supplySrc bs).src = s.src ++ bs := rfl
@[simp] theorem State.supplySrc_srcPos (bs : List Byte) (s : State) : (s.supplySrc bs).srcPos = s.srcPos := rfl
@[simp] theorem State.supplySrc_rbuf (bs : List Byte) (s : State) : (s.supplySrc bs).rbuf = s.rbuf := rfl
@[simp] theorem State.supplySrc_completion (bs : List Byte) (s : State) : (s.supplySrc bs).completion = s.completion := rfl
@[simp] theorem State.supplySrc_script (bs : List Byte) (s : State) : (s.supplySrc bs).script = s.script := rfl
@[simp] theorem State.supplySrc_layout (bs : List Byte) (s : State) : (s.supplySrc bs).layout = s.layout := rfl

@[simp] theorem State.dropSrc_config (n : Nat) (s : State) : (s.dropSrc n).config = s.config := rfl
@[simp] theorem State.dropSrc_txId (n : Nat) (s : State) : (s.dropSrc n).txId = s.txId := rfl
@[simp] theorem State.dropSrc_rxCount (n : Nat) (s : State) : (s.dropSrc n).rxCount = s.rxCount := rfl
@[simp] theorem State.dropSrc_rxOffset (n : Nat) (s : State) : (s.dropSrc n).rxOffset = s.rxOffset := rfl
@[simp] theorem State.dropSrc_rxId (n : Nat) (s : State) : (s.dropSrc n).rxId = s.rxId := rfl
@[simp] theorem State.dropSrc_rxLen (n : Nat) (s : State) : (s.dropSrc n).rxLen = s.rxLen := rfl
@[simp] theorem State.dropSrc_rxStatus (n : Nat) (s : State) : (s.dropSrc n).rxStatus = s.rxStatus := rfl
@[simp] theorem State.dropSrc_rxSticky (n : Nat) (s : State) : (s.dropSrc n).rxSticky = s.rxSticky := rfl
@[simp] theorem State.dropSrc_rxHalt (n : Nat) (s : State) : (s.dropSrc n).rxHalt = s.rxHalt := rfl
@[simp] theorem State.dropSrc_sink (n : Nat) (s : State) : (s.dropSrc n).sink = s.sink := rfl
@[simp] theorem State.dropSrc_src (n : Nat) (s : State) : (s.dropSrc n).src = s.src.drop n := rfl
@[simp] theorem State.dropSrc_srcPos (n : Nat) (s : State) : (s.dropSrc n).srcPos = s.srcPos + n := rfl
@[simp] theorem State.dropSrc_rbuf (n : Nat) (s : State) : (s.dropSrc n).rbuf = s.rbuf := rfl
@[simp] theorem State.dropSrc_completion (n : Nat) (s : State) : (s.dropSrc n).completion = s.completion := rfl
@[simp] theorem State.dropSrc_script (n : Nat) (s : State) : (s.dropSrc n).script = s.script := rfl
@[simp] theorem State.dropSrc_layout (n : Nat) (s : State) : (s.dropSrc n).layout = s.layout := rfl

@[simp] theorem State.setTxId_config (v : BitVec 6) (s : State) : (s.setTxId v).config = s.config := rfl
@[simp] theorem State.setTxId_txId (v : BitVec 6) (s : State) : (s.setTxId v).txId = v := rfl
@[simp] theorem State.setTxId_rxCount (v : BitVec 6) (s : State) : (s.setTxId v).rxCount = s.rxCount := rfl
@[simp] theorem State.setTxId_rxOffset (v : BitVec 6) (s : State) : (s.setTxId v).rxOffset = s.rxOffset := rfl
@[simp] theorem State.setTxId_rxId (v : BitVec 6) (s : State) : (s.setTxId v).rxId = s.rxId := rfl
@[simp] theorem State.setTxId_rxLen (v : BitVec 6) (s : State) : (s.setTxId v).rxLen = s.rxLen := rfl
@[simp] theorem State.setTxId_rxStatus (v : BitVec 6) (s : State) : (s.setTxId v).rxStatus = s.rxStatus := rfl
@[simp] theorem State.setTxId_rxSticky (v : BitVec 6) (s : State) : (s.setTxId v).rxSticky = s.rxSticky := rfl
@[simp] theorem State.setTxId_rxHalt (v : BitVec 6) (s : State) : (s.setTxId v).rxHalt = s.rxHalt := rfl
@[simp] theorem State.setTxId_sink (v : BitVec 6) (s : State) : (s.setTxId v).sink = s.sink := rfl
@[simp] theorem State.setTxId_src (v : BitVec 6) (s : State) : (s.setTxId v).src = s.src := rfl
@[simp] theorem State.setTxId_srcPos (v : BitVec 6) (s : State) : (s.setTxId v).srcPos = s.srcPos := rfl
@[simp] theorem State.setTxId_rbuf (v : BitVec 6) (s : State) : (s.setTxId v).rbuf = s.rbuf := rfl
@[simp] theorem State.setTxId_completion (v : BitVec 6) (s : State) : (s.setTxId v).completion = s.completion := rfl
@[simp] theorem State.setTxId_script (v : BitVec 6) (s : State) : (s.setTxId v).script = s.script := rfl
@[simp] theorem State.setTxId_layout (v : BitVec 6) (s : State) : (s.setTxId v).layout = s.layout := rfl

@[simp] theorem State.presetRx_config (c0 : Word) (s : State) : (s.presetRx c0).config = s.config := rfl
@[simp] theorem State.presetRx_txId (c0 : Word) (s : State) : (s.presetRx c0).txId = s.txId := rfl
@[simp] theorem State.presetRx_rxCount (c0 : Word) (s : State) : (s.presetRx c0).rxCount = c0 := rfl
@[simp] theorem State.presetRx_rxOffset (c0 : Word) (s : State) : (s.presetRx c0).rxOffset = 0 := rfl
@[simp] theorem State.presetRx_rxId (c0 : Word) (s : State) : (s.presetRx c0).rxId = 0 := rfl
@[simp] theorem State.presetRx_rxLen (c0 : Word) (s : State) : (s.presetRx c0).rxLen = 0 := rfl
@[simp] theorem State.presetRx_rxStatus (c0 : Word) (s : State) : (s.presetRx c0).rxStatus = 0 := rfl
@[simp] theorem State.presetRx_rxSticky (c0 : Word) (s : State) : (s.presetRx c0).rxSticky = 0 := rfl
@[simp] theorem State.presetRx_rxHalt (c0 : Word) (s : State) : (s.presetRx c0).rxHalt = 0 := rfl
@[simp] theorem State.presetRx_sink (c0 : Word) (s : State) : (s.presetRx c0).sink = s.sink := rfl
@[simp] theorem State.presetRx_src (c0 : Word) (s : State) : (s.presetRx c0).src = s.src := rfl
@[simp] theorem State.presetRx_srcPos (c0 : Word) (s : State) : (s.presetRx c0).srcPos = s.srcPos := rfl
@[simp] theorem State.presetRx_rbuf (c0 : Word) (s : State) : (s.presetRx c0).rbuf = s.rbuf := rfl
@[simp] theorem State.presetRx_completion (c0 : Word) (s : State) : (s.presetRx c0).completion = s.completion := rfl
@[simp] theorem State.presetRx_script (c0 : Word) (s : State) : (s.presetRx c0).script = s.script := rfl
@[simp] theorem State.presetRx_layout (c0 : Word) (s : State) : (s.presetRx c0).layout = s.layout := rfl

@[simp] theorem State.acceptRx_config (off : Word) (id : BitVec 6) (len : BitVec 10) (n : Nat) (s : State) : (s.acceptRx off id len n).config = s.config := rfl
@[simp] theorem State.acceptRx_txId (off : Word) (id : BitVec 6) (len : BitVec 10) (n : Nat) (s : State) : (s.acceptRx off id len n).txId = s.txId := rfl
@[simp] theorem State.acceptRx_rxCount (off : Word) (id : BitVec 6) (len : BitVec 10) (n : Nat) (s : State) : (s.acceptRx off id len n).rxCount = s.rxCount + BitVec.ofNat 32 n := rfl
@[simp] theorem State.acceptRx_rxOffset (off : Word) (id : BitVec 6) (len : BitVec 10) (n : Nat) (s : State) : (s.acceptRx off id len n).rxOffset = off := rfl
@[simp] theorem State.acceptRx_rxId (off : Word) (id : BitVec 6) (len : BitVec 10) (n : Nat) (s : State) : (s.acceptRx off id len n).rxId = id := rfl
@[simp] theorem State.acceptRx_rxLen (off : Word) (id : BitVec 6) (len : BitVec 10) (n : Nat) (s : State) : (s.acceptRx off id len n).rxLen = len := rfl
@[simp] theorem State.acceptRx_rxStatus (off : Word) (id : BitVec 6) (len : BitVec 10) (n : Nat) (s : State) : (s.acceptRx off id len n).rxStatus = 0 := rfl
@[simp] theorem State.acceptRx_rxSticky (off : Word) (id : BitVec 6) (len : BitVec 10) (n : Nat) (s : State) : (s.acceptRx off id len n).rxSticky = s.rxSticky := rfl
@[simp] theorem State.acceptRx_rxHalt (off : Word) (id : BitVec 6) (len : BitVec 10) (n : Nat) (s : State) : (s.acceptRx off id len n).rxHalt = s.rxHalt := rfl
@[simp] theorem State.acceptRx_sink (off : Word) (id : BitVec 6) (len : BitVec 10) (n : Nat) (s : State) : (s.acceptRx off id len n).sink = s.sink := rfl
@[simp] theorem State.acceptRx_src (off : Word) (id : BitVec 6) (len : BitVec 10) (n : Nat) (s : State) : (s.acceptRx off id len n).src = s.src := rfl
@[simp] theorem State.acceptRx_srcPos (off : Word) (id : BitVec 6) (len : BitVec 10) (n : Nat) (s : State) : (s.acceptRx off id len n).srcPos = s.srcPos := rfl
@[simp] theorem State.acceptRx_rbuf (off : Word) (id : BitVec 6) (len : BitVec 10) (n : Nat) (s : State) : (s.acceptRx off id len n).rbuf = s.rbuf := rfl
@[simp] theorem State.acceptRx_completion (off : Word) (id : BitVec 6) (len : BitVec 10) (n : Nat) (s : State) : (s.acceptRx off id len n).completion = s.completion := rfl
@[simp] theorem State.acceptRx_script (off : Word) (id : BitVec 6) (len : BitVec 10) (n : Nat) (s : State) : (s.acceptRx off id len n).script = s.script := rfl
@[simp] theorem State.acceptRx_layout (off : Word) (id : BitVec 6) (len : BitVec 10) (n : Nat) (s : State) : (s.acceptRx off id len n).layout = s.layout := rfl

@[simp] theorem State.emitChunk_config (off : Word) (bs : List Byte) (s : State) : (s.emitChunk off bs).config = s.config := rfl
@[simp] theorem State.emitChunk_txId (off : Word) (bs : List Byte) (s : State) : (s.emitChunk off bs).txId = s.txId + 1 := rfl
@[simp] theorem State.emitChunk_rxCount (off : Word) (bs : List Byte) (s : State) : (s.emitChunk off bs).rxCount = s.rxCount := rfl
@[simp] theorem State.emitChunk_rxOffset (off : Word) (bs : List Byte) (s : State) : (s.emitChunk off bs).rxOffset = s.rxOffset := rfl
@[simp] theorem State.emitChunk_rxId (off : Word) (bs : List Byte) (s : State) : (s.emitChunk off bs).rxId = s.rxId := rfl
@[simp] theorem State.emitChunk_rxLen (off : Word) (bs : List Byte) (s : State) : (s.emitChunk off bs).rxLen = s.rxLen := rfl
@[simp] theorem State.emitChunk_rxStatus (off : Word) (bs : List Byte) (s : State) : (s.emitChunk off bs).rxStatus = s.rxStatus := rfl
@[simp] theorem State.emitChunk_rxSticky (off : Word) (bs : List Byte) (s : State) : (s.emitChunk off bs).rxSticky = s.rxSticky := rfl
@[simp] theorem State.emitChunk_rxHalt (off : Word) (bs : List Byte) (s : State) : (s.emitChunk off bs).rxHalt = s.rxHalt := rfl
@[simp] theorem State.emitChunk_sink (off : Word) (bs : List Byte) (s : State) : (s.emitChunk off bs).sink = s.sink ++ buildFrame s.layout s.txId off bs := rfl
@[simp] theorem State.emitChunk_src (off : Word) (bs : List Byte) (s : State) : (s.emitChunk off bs).src = s.src := rfl
@[simp] theorem State.emitChunk_srcPos (off : Word) (bs : List Byte) (s : State) : (s.emitChunk off bs).srcPos = s.srcPos := rfl
@[simp] theorem State.emitChunk_rbuf (off : Word) (bs : List Byte) (s : State) : (s.emitChunk off bs).rbuf = s.rbuf := rfl
@[simp] theorem State.emitChunk_completion (off : Word) (bs : List Byte) (s : State) : (s.emitChunk off bs).completion = s.completion := rfl
@[simp] theorem State.emitChunk_script (off : Word) (bs : List Byte) (s : State) : (s.emitChunk off bs).script = s.script := rfl
@[simp] theorem State.emitChunk_layout (off : Word) (bs : List Byte) (s : State) : (s.emitChunk off bs).layout = s.layout := rfl

@[simp] theorem State.resetBlock_config (s : State) : (s.resetBlock).config = s.config := rfl
@[simp] theorem State.resetBlock_txId (s : State) : (s.resetBlock).txId = s.config.msgIdReset := rfl
@[simp] theorem State.resetBlock_rxCount (s : State) : (s.resetBlock).rxCount = 0 := rfl
@[simp] theorem State.resetBlock_rxOffset (s : State) : (s.resetBlock).rxOffset = 0 := rfl
@[simp] theorem State.resetBlock_rxId (s : State) : (s.resetBlock).rxId = 0 := rfl
@[simp] theorem State.resetBlock_rxLen (s : State) : (s.resetBlock).rxLen = 0 := rfl
@[simp] theorem State.resetBlock_rxStatus (s : State) : (s.resetBlock).rxStatus = 0 := rfl
@[simp] theorem State.resetBlock_rxSticky (s : State) : (s.resetBlock).rxSticky = 0 := rfl
@[simp] theorem State.resetBlock_rxHalt (s : State) : (s.resetBlock).rxHalt = 0 := rfl
@[simp] theorem State.resetBlock_sink (s : State) : (s.resetBlock).sink = s.sink := rfl
@[simp] theorem State.resetBlock_src (s : State) : (s.resetBlock).src = s.src := rfl
@[simp] theorem State.resetBlock_srcPos (s : State) : (s.resetBlock).srcPos = s.srcPos := rfl
@[simp] theorem State.resetBlock_rbuf (s : State) : (s.resetBlock).rbuf = s.rbuf := rfl
@[simp] theorem State.resetBlock_completion (s : State) : (s.resetBlock).completion = none := rfl
@[simp] theorem State.resetBlock_script (s : State) : (s.resetBlock).script = s.script := rfl
@[simp] theorem State.resetBlock_layout (s : State) : (s.resetBlock).layout = s.layout := rfl

@[simp] theorem State.advance_config (s : State) : (s.advance).config = s.config := rfl
@[simp] theorem State.advance_txId (s : State) : (s.advance).txId = s.txId := rfl
@[simp] theorem State.advance_rxCount (s : State) : (s.advance).rxCount = s.rxCount := rfl
@[simp] theorem State.advance_rxOffset (s : State) : (s.advance).rxOffset = s.rxOffset := rfl
@[simp] theorem State.advance_rxId (s : State) : (s.advance).rxId = s.rxId := rfl
@[simp] theorem State.advance_rxLen (s : State) : (s.advance).rxLen = s.rxLen := rfl
@[simp] theorem State.advance_rxStatus (s : State) : (s.advance).rxStatus = s.rxStatus := rfl
@[simp] theorem State.advance_rxSticky (s : State) : (s.advance).rxSticky = s.rxSticky := rfl
@[simp] theorem State.advance_rxHalt (s : State) : (s.advance).rxHalt = s.rxHalt := rfl
@[simp] theorem State.advance_sink (s : State) : (s.advance).sink = s.sink := rfl
@[simp] theorem State.advance_src (s : State) : (s.advance).src = s.src := rfl
@[simp] theorem State.advance_srcPos (s : State) : (s.advance).srcPos = s.srcPos := rfl
@[simp] theorem State.advance_rbuf (s : State) : (s.advance).rbuf = s.rbuf := rfl
@[simp] theorem State.advance_completion (s : State) : (s.advance).completion = s.completion := rfl
@[simp] theorem State.advance_script (s : State) : (s.advance).script = s.script.tail := rfl
@[simp] theorem State.advance_layout (s : State) : (s.advance).layout = s.layout := rfl

end Sys2Proof.Machine
end

