-- ==== Sys2Proof/Laws/Exec.lean ====
section
/-! SUPPORT. What the shared operations, the meanings and the step can do, said once: one lemma each, to be cited in
place of unfolding them. -/

namespace Sys2Proof.Machine

/-! Flags. -/

theorem bit1_eq_zero_of_ne_one {b : BitVec 1} (h : b ≠ 1) : b = 0 := by
  have := b.isLt
  apply BitVec.eq_of_toNat_eq
  have h1 : b.toNat ≠ 1 := fun e => h (BitVec.eq_of_toNat_eq e)
  change b.toNat = 0
  omega

theorem stickyWith_bit (x : BitVec 5) (c : ResultCode) (k : Nat) (hk : k < 5) :
    (stickyWith x c).getLsbD k = true ↔ x.getLsbD k = true ∨ c.toBits.toNat = k := by
  have e : (1#5 <<< c.toBits.toNat).getLsbD k = true ↔ (k < 5 ∧ c.toBits.toNat = k) := by
    interval_cases k <;> cases c <;> decide
  rw [stickyWith, BitVec.getLsbD_or, Bool.or_eq_true, e]; tauto

/-! The validator. -/

/-- The checks of a frame in the order of R169. -/
theorem validateFrame_cases (s : State) (F : List Byte) :
    s.validateFrame F = if frameMarkersOk s.layout F = true then
      if frameLenOk s.layout F = true then
        if frameChecksumOk s.layout F = true then s.acceptFrame F else s.failRaise .checksumMismatch
      else s.failRaise .badLength
      else s.failRaise .badMarker := by
  unfold State.validateFrame
  cases frameMarkersOk s.layout F <;> cases frameLenOk s.layout F <;> cases frameChecksumOk s.layout F <;> rfl

/-- A frame that passes every check. -/
theorem validateFrame_accept {s : State} {F : List Byte} (h1 : frameMarkersOk s.layout F = true)
    (h2 : frameLenOk s.layout F = true) (h3 : frameChecksumOk s.layout F = true) :
    s.validateFrame F = s.acceptFrame F := by
  rw [validateFrame_cases, if_pos h1, if_pos h2, if_pos h3]

/-- A frame that fails the checksum only. -/
theorem validateFrame_mismatch {s : State} {F : List Byte} (h1 : frameMarkersOk s.layout F = true)
    (h2 : frameLenOk s.layout F = true) (h3 : frameChecksumOk s.layout F = false) :
    s.validateFrame F = s.failRaise .checksumMismatch := by
  rw [validateFrame_cases, if_pos h1, if_pos h2, if_neg (by rw [h3]; exact Bool.false_ne_true)]

/-- Whether a frame is accepted shows in the completion. -/
theorem validateFrame_ok_iff (s : State) (F : List Byte) :
    (∃ v, (s.validateFrame F).completion = some { code := .ok, value := v }) ↔
      frameMarkersOk s.layout F = true ∧ frameLenOk s.layout F = true ∧ frameChecksumOk s.layout F = true := by
  rw [validateFrame_cases]
  by_cases h1 : frameMarkersOk s.layout F = true
  · by_cases h2 : frameLenOk s.layout F = true
    · by_cases h3 : frameChecksumOk s.layout F = true
      · rw [if_pos h1, if_pos h2, if_pos h3]; simp [h1, h2, h3, State.acceptFrame]
      · rw [if_pos h1, if_pos h2, if_neg h3]; simp [h3]
    · rw [if_pos h1, if_neg h2]; simp [h2]
  · rw [if_neg h1]; simp [h1]

/-- VAL.CHUNK, not halted, with a frame at the front of SRC. -/
theorem execValChunk_frame {s : State} {F rest : List Byte} (hs : s.src = F ++ rest) (hF : F.length = 1024)
    (hh : s.rxHalt = 0) : execValChunk s = .next ((s.dropSrc 1024).validateFrame F) := by
  rw [execValChunk, if_neg (by simp [hh]), if_neg (by rw [State.availSrc, hs, chunkSize_eq]; simp; omega),
    chunkSize_eq, State.headSrc, hs, ← hF, List.take_left]

/-- The same, the frame written as what is taken. -/
theorem execValChunk_take {s : State} (hl : 1024 ≤ s.src.length) (hh : s.rxHalt = 0) :
    execValChunk s = .next ((s.dropSrc 1024).validateFrame (s.src.take 1024)) :=
  execValChunk_frame (List.take_append_drop 1024 s.src).symm (by simp [hl]) hh

/-- Everything VAL.CHUNK can do. -/
theorem execValChunk_cases {s t : State} (h : execValChunk s = .next t) :
    (s.rxHalt = 1 ∧ t = s.raise .halted) ∨
    (s.rxHalt = 0 ∧ s.src.length < 1024 ∧ t = s.halt.failRaise .truncatedInput) ∨
    (s.rxHalt = 0 ∧ 1024 ≤ s.src.length ∧
      ((∃ c, (c = .badMarker ∨ c = .badLength ∨ c = .checksumMismatch) ∧ t = (s.dropSrc 1024).failRaise c) ∨
       (frameMarkersOk s.layout (s.src.take 1024) = true ∧ frameLenOk s.layout (s.src.take 1024) = true ∧
         frameChecksumOk s.layout (s.src.take 1024) = true ∧
        t = (s.dropSrc 1024).acceptFrame (s.src.take 1024)))) := by
  by_cases hh : s.rxHalt = 1
  · rw [execValChunk, if_pos hh] at h
    cases h
    exact .inl ⟨hh, rfl⟩
  · have hh0 := bit1_eq_zero_of_ne_one hh
    right
    by_cases hl : s.src.length < 1024
    · rw [execValChunk, if_neg hh, if_pos (by rw [chunkSize_eq]; exact hl)] at h
      cases h
      exact .inl ⟨hh0, hl, rfl⟩
    · refine .inr ⟨hh0, by omega, ?_⟩
      rw [execValChunk_take (by omega) hh0, validateFrame_cases] at h
      split at h
      · split at h
        · split at h
          · cases h; exact .inr ⟨‹_›, ‹_›, ‹_›, rfl⟩
          · cases h; exact .inl ⟨_, .inr (.inr rfl), rfl⟩
        · cases h; exact .inl ⟨_, .inr (.inl rfl), rfl⟩
      · cases h; exact .inl ⟨_, .inl rfl, rfl⟩

/-! The encoder. -/

/-- Everything ENC.CHUNK can do. -/
theorem execEncChunk_cases (off : Word) (content : List Byte) (s : State) :
    ((content.length = 0 ∨ s.layout.contentCap < content.length) ∧
      execEncChunk off content s = .next (s.raise .badRequest)) ∨
    (1 ≤ content.length ∧ content.length ≤ s.layout.contentCap ∧
      execEncChunk off content s = .next ((s.emitChunk off content).succeed .none)) := by
  by_cases h : content.length = 0 ∨ s.layout.contentCap < content.length
  · exact .inl ⟨h, by rw [execEncChunk, if_pos (by omega)]⟩
  · exact .inr ⟨by omega, by omega, by rw [execEncChunk, if_neg (by omega)]⟩

/-- Only an operand R101 does not admit stops ENC.BLOB. -/
theorem execEncBlob_next {blob : List Byte} {s t : State} (h : execEncBlob blob s = .next t) :
    blob.length < 2 ^ 32 := by
  rw [execEncBlob] at h
  split at h
  · assumption
  · cases h

theorem lt_chunkCount_iff (p : Profile) (k size : Nat) :
    k < chunkCount p.layout size ↔ k * p.layout.contentCap < size := by
  have e := Nat.succ_mul k p.layout.contentCap
  have hc := contentCap_pos p
  unfold chunkCount
  rw [← Nat.succ_le_iff, Nat.le_div_iff_mul_le hc]
  omega

theorem chunkCount_le (p : Profile) (n : Nat) : chunkCount p.layout n ≤ n := by
  unfold chunkCount
  cases p <;> simp only [Profile.layout] <;> omega

theorem chunkContent_length_bounds {p : Profile} {blob : List Byte} {k : Nat}
    (h : k < chunkCount p.layout blob.length) :
    1 ≤ (chunkContent p.layout blob k).length ∧ (chunkContent p.layout blob k).length ≤ p.layout.contentCap := by
  have := (lt_chunkCount_iff p k blob.length).mp h
  have := contentCap_pos p
  rw [chunkContent, slice_length]
  omega

/-- `m` chunks of a sub-binary from chunk `k`. -/
def chunksFrom (L : Layout) (id : BitVec 6) (blob : List Byte) (k m : Nat) : List Byte :=
  ((List.range' k m).map (chunkOfBlob L id blob)).flatten

theorem chunksFrom_zero (L : Layout) (id : BitVec 6) (blob : List Byte) (k : Nat) : chunksFrom L id blob k 0 = [] := rfl

theorem chunksFrom_succ (L : Layout) (id : BitVec 6) (blob : List Byte) (k m : Nat) :
    chunksFrom L id blob k (m + 1) = chunkOfBlob L id blob k ++ chunksFrom L id blob (k + 1) m := by
  simp [chunksFrom, List.range'_succ]

theorem chunksFrom_add (L : Layout) (id : BitVec 6) (blob : List Byte) (k m n : Nat) :
    chunksFrom L id blob k (m + n) = chunksFrom L id blob k m ++ chunksFrom L id blob (k + m) n := by
  induction m generalizing k with
  | zero => rw [Nat.zero_add]; rfl
  | succ m ih =>
    rw [Nat.succ_add, chunksFrom_succ, chunksFrom_succ, ih, List.append_assoc, show k + 1 + m = k + (m + 1) by omega]

theorem chunksFrom_length (p : Profile) (id : BitVec 6) (blob : List Byte) (k m : Nat) :
    (chunksFrom p.layout id blob k m).length = 1024 * m := by
  induction m generalizing k with
  | zero => rfl
  | succ m ih =>
    rw [chunksFrom_succ, List.length_append, ih, chunkOfBlob, chunkBytes_length]
    · ring
    · rw [chunkContent, slice_length]; omega

/-- Emitting chunk `k` of a sub-binary. -/
theorem emitChunk_blob {p : Profile} {s : State} {id : BitVec 6} {k : Nat} (blob : List Byte)
    (hp : s.config.profile = p) (hid : s.txId = id + BitVec.ofNat 6 k) :
    s.emitChunk (BitVec.ofNat 32 (k * p.layout.contentCap)) (chunkContent p.layout blob k) =
      { s with txId := id + BitVec.ofNat 6 (k + 1), sink := s.sink ++ chunkOfBlob p.layout id blob k } := by
  have hlen : (chunkContent p.layout blob k).length ≤ p.layout.contentCap := by
    rw [chunkContent, slice_length]; omega
  have hn : s.txId + 1 = id + BitVec.ofNat 6 (k + 1) := by
    rw [hid, BitVec.add_assoc, BitVec.ofNat_add]; rfl
  unfold State.emitChunk
  rw [layout_eq, hp, buildFrame_eq p _ _ _ hlen, chunkOfBlob, ← hid, ← hn]
  rfl

theorem slice_min (S : List Byte) (a n : Nat) : slice S a (min n (S.length - a)) = slice S a n := by
  unfold slice
  rw [← List.length_drop, ← List.take_take, List.take_length]

/-- The loop of ENC.BLOB with `m` chunks to go from chunk `k`. -/
theorem blobLoop_eq (p : Profile) (blob : List Byte) (id : BitVec 6) :
    ∀ (m fuel k : Nat) (s : State), s.config.profile = p → m + k = chunkCount p.layout blob.length →
    m ≤ fuel → s.txId = id + BitVec.ofNat 6 k →
    blobLoop blob fuel (min (k * p.layout.contentCap) blob.length) k s =
      ({ s with
          txId := id + BitVec.ofNat 6 (k + m)
          sink := s.sink ++ chunksFrom p.layout id blob k m }, k + m) := by
  intro m
  induction m with
  | zero =>
    intro fuel k s hs hm hf hid
    have hle := (lt_chunkCount_iff p k blob.length).not.mp (by omega)
    have e : ({ s with
        txId := id + BitVec.ofNat 6 (k + 0)
        sink := s.sink ++ chunksFrom p.layout id blob k 0 } : State) = s := by
      simp [chunksFrom, ← hid]
    cases fuel with
    | zero => rw [e]; rfl
    | succ f => rw [blobLoop, if_neg (by omega), e]; rfl
  | succ m ih =>
    intro fuel k s hs hm hf hid
    obtain ⟨f, rfl⟩ : ∃ f, fuel = f + 1 := ⟨fuel - 1, by omega⟩
    have hlt := (lt_chunkCount_iff p k blob.length).mp (by omega)
    rw [blobLoop, if_pos (by omega), min_eq_left hlt.le, layout_eq, hs]
    simp only
    have hn : k * p.layout.contentCap + min p.layout.contentCap (blob.length - k * p.layout.contentCap) =
        min ((k + 1) * p.layout.contentCap) blob.length := by
      have : (k + 1) * p.layout.contentCap = k * p.layout.contentCap + p.layout.contentCap := Nat.succ_mul ..
      omega
    have hsl : slice blob (k * p.layout.contentCap)
        (min p.layout.contentCap (blob.length - k * p.layout.contentCap)) = chunkContent p.layout blob k :=
      slice_min ..
    rw [hn, hsl, emitChunk_blob blob hs hid,
      ih f (k + 1) { s with
        txId := id + BitVec.ofNat 6 (k + 1)
        sink := s.sink ++ chunkOfBlob p.layout id blob k } hs (by omega) (by omega) rfl,
      show k + 1 + m = k + (m + 1) by omega, chunksFrom_succ]
    simp

/-! The step. -/

theorem step_cons {s : State} {e : HostEvent} {rest : List HostEvent} (h : s.script = e :: rest) :
    step s = hostAct e { s with script := rest } := by
  rw [step, h]; simp only [State.advance, h, List.tail_cons]

theorem runSteps_zero (s : State) : runSteps 0 s = .next s := rfl

theorem runSteps_succ {s t : State} (n : Nat) (h : step s = .next t) : runSteps (n + 1) s = runSteps n t := by
  rw [runSteps, h]

theorem runSteps_add {s t : State} (m n : Nat) (h : runSteps m s = .next t) :
    runSteps (m + n) s = runSteps n t := by
  induction m generalizing s with
  | zero => rw [runSteps_zero] at h; cases h; rw [Nat.zero_add]
  | succ m ih =>
    rw [Nat.succ_add]
    rw [runSteps] at h ⊢
    rcases hs : step s with s' | f | r <;> rw [hs] at h
    · exact ih h
    · cases h
    · cases h

/-- Everything a step can do. -/
theorem step_cases {s t : State} (h : step s = .next t) :
    (s.script = [] ∧ t = s) ∨
    (∃ rest, s.script = .reset :: rest ∧ t = State.resetBlock { s with script := rest }) ∨
    (∃ bytes rest, s.script = .appendSink bytes :: rest ∧ t = State.appendSink bytes { s with script := rest }) ∨
    (∃ bytes rest, s.script = .supplySrc bytes :: rest ∧ t = State.supplySrc bytes { s with script := rest }) ∨
    (∃ start rest, s.script = .carry start :: rest ∧
      t = State.supplySrc (s.sink.drop start) { s with script := rest }) ∨
    (∃ n rest, s.script = .readSrc n :: rest ∧ n ≤ s.src.length ∧ t = State.dropSrc n { s with script := rest }) ∨
    (∃ space octets rest i, s.script = .issue space octets :: rest ∧ decode space octets = .ok i ∧
      exec i { s with script := rest } = .next t) := by
  rcases hs : s.script with _ | ⟨e, rest⟩
  · rw [step, hs] at h; cases h; exact .inl ⟨rfl, rfl⟩
  · right
    rw [step_cons hs] at h
    cases e with
    | reset => cases h; exact .inl ⟨_, rfl, rfl⟩
    | appendSink b => cases h; exact .inr (.inl ⟨_, _, rfl, rfl⟩)
    | supplySrc b => cases h; exact .inr (.inr (.inl ⟨_, _, rfl, rfl⟩))
    | carry n => cases h; exact .inr (.inr (.inr (.inl ⟨_, _, rfl, rfl⟩)))
    | readSrc n =>
      rw [hostAct, hostReadSrc] at h
      split at h
      · cases h; exact .inr (.inr (.inr (.inr (.inl ⟨_, _, rfl, ‹_›, rfl⟩))))
      · cases h
    | issue sp o =>
      rw [hostAct, issueOctets] at h
      split at h
      · exact .inr (.inr (.inr (.inr (.inr ⟨_, _, _, _, rfl, ‹_›, h⟩))))
      · cases h

end Sys2Proof.Machine
end

