-- ==== Sys2Proof/Laws/Host.lean ====
section
/-! SUPPORT. Laws of the environment: the aligned cursor, the end of a transfer, one pass of the receive loop. -/

namespace Sys2Proof.Machine

theorem align4_mod (n : Nat) : align4 n % 4 = 0 := by unfold align4; omega

theorem le_align4 (n : Nat) : n ≤ align4 n := by unfold align4; omega

theorem align4_eq_self {n : Nat} (h : n % 4 = 0) : align4 n = n := by unfold align4; omega

theorem le_endFrom (blobs : List (List Byte)) (cur : Nat) : cur ≤ endFrom cur blobs := by
  induction blobs generalizing cur with
  | nil => exact le_rfl
  | cons blob blobs ih =>
    cases blobs with
    | nil => exact Nat.le_add_right ..
    | cons next blobs =>
      have := ih (cur + align4 blob.length)
      rw [endFrom]; omega

/-- What a bound on the end of a non-empty layout gives for its first sub-binary and for the rest. -/
theorem endFrom_cons_lt {cur n : Nat} {blob : List Byte} {blobs : List (List Byte)}
    (h : endFrom cur (blob :: blobs) < n) :
    cur + blob.length < n ∧
      (blobs ≠ [] → cur + align4 blob.length < n ∧ endFrom (cur + align4 blob.length) blobs < n) := by
  cases blobs with
  | nil => exact ⟨h, fun h => absurd rfl h⟩
  | cons next blobs =>
    rw [endFrom] at h
    have h1 := le_endFrom (next :: blobs) (cur + align4 blob.length)
    have h2 := le_align4 blob.length
    exact ⟨by omega, fun _ => ⟨by omega, h⟩⟩

/-- The receive loop ends as soon as the count reaches its target. -/
theorem receiveLoop_done (P : HostParams) {pads target fuel : Nat} {s : State} (h : target ≤ s.rxCount.toNat + pads)
    (hf : 0 < fuel) : receiveLoop P pads target fuel s = (none, s) := by
  cases fuel with
  | zero => exact absurd hf (lt_irrefl 0)
  | succ fuel => rw [receiveLoop, if_neg (by omega)]

/-- An accepted chunk lets the receive loop go on. -/
theorem receiveLoop_accept (P : HostParams) {pads target fuel : Nat} {s t : State} {v : ResultValue}
    (h : s.rxCount.toNat + pads < target) (hx : execValChunk s = .next t)
    (hc : t.completion = some { code := .ok, value := v }) :
    receiveLoop P pads target (fuel + 1) s = receiveLoop P pads target fuel t := by
  have hr : runOp .valChunk s = t := by rw [runOp, exec, hx]
  have hl : lastCode t = .ok := by rw [lastCode, hc]
  rw [receiveLoop, if_pos h]
  simp only [hr, hl]

end Sys2Proof.Machine
end

