-- ==== Sys2Proof/Laws/PerInstr.lean ====
section
/-! SUPPORT. One statement for every instruction, by constructor: its octets fit its row of spec/opcode_table.json. -/

namespace Sys2Proof.Laws.RowPattern

open Sys2Proof Sys2Proof.Machine

/-- What a row of the opcode table fixes: the encoding space, how many octets the row's word takes, its mask and the
value under the mask. -/
structure Row where
  space  : Space
  octets : Nat
  mask   : Nat
  value  : Nat
  deriving DecidableEq, Repr

/-- The row of each instruction (spec/opcode_table.json; spec/30_encoding.md R100, R102, R104). -/
def row : Instr → Row
  | .crcSpan _ => { space := .request, octets := 1, mask := 7, value := 0 }
  | .encInit => { space := .request, octets := 1, mask := 7, value := 1 }
  | .encChunk _ _ => { space := .request, octets := 1, mask := 7, value := 2 }
  | .encBlob _ => { space := .request, octets := 1, mask := 7, value := 3 }
  | .valInit _ => { space := .request, octets := 1, mask := 7, value := 4 }
  | .valChunk => { space := .request, octets := 1, mask := 7, value := 5 }
  | .reserved6 => { space := .request, octets := 1, mask := 7, value := 6 }
  | .reserved7 => { space := .request, octets := 1, mask := 7, value := 7 }
  | .chunkHeader _ _ => { space := .header, octets := 2, mask := 0, value := 0 }
  | .chunkStart => { space := .marker, octets := 1, mask := 255, value := 2 }
  | .chunkEnd => { space := .marker, octets := 1, mask := 255, value := 3 }

/-- The octets of an instruction are read in its row's space, hold the row's word whole, and show the row's pattern. -/
def Statement (i : Instr) : Prop :=
  (encode i).1 = (row i).space ∧ (row i).octets ≤ (encode i).2.length ∧
    unle ((encode i).2.take (row i).octets) &&& (row i).mask = (row i).value

theorem crcSpan (span : List Byte) : Statement (.crcSpan span) :=
  ⟨rfl, by simp [row, encode], by simp [row, encode, unle]⟩

theorem encInit : Statement .encInit := ⟨rfl, by simp [row, encode], rfl⟩

theorem encChunk (off : Word) (content : List Byte) : Statement (.encChunk off content) :=
  ⟨rfl, by simp [row, encode], by simp [row, encode, unle]⟩

theorem encBlob (blob : List Byte) : Statement (.encBlob blob) :=
  ⟨rfl, by simp [row, encode], by simp [row, encode, unle]⟩

theorem valInit (count0 : Word) : Statement (.valInit count0) :=
  ⟨rfl, by simp [row, encode], by simp [row, encode, unle]⟩

theorem valChunk : Statement .valChunk := ⟨rfl, by simp [row, encode], rfl⟩

theorem reserved6 : Statement .reserved6 := ⟨rfl, by simp [row, encode], rfl⟩

theorem reserved7 : Statement .reserved7 := ⟨rfl, by simp [row, encode], rfl⟩

theorem chunkHeader (id : BitVec 6) (len : BitVec 10) : Statement (.chunkHeader id len) :=
  ⟨rfl, by simp [row, encode, le], by simp [row]⟩

theorem chunkStart : Statement .chunkStart := ⟨rfl, by simp [row, encode], rfl⟩

theorem chunkEnd : Statement .chunkEnd := ⟨rfl, by simp [row, encode], rfl⟩

end Sys2Proof.Laws.RowPattern
end

