-- ==== Sys2Proof/Tests/Slice0.lean ====
section
/-! SUPPORT. Tests against numbers of spec/95_test_vectors.md (section in each docstring), the smoke test of
WellFormed, decoding from words written out of the encodings, and for each obligation a concrete input that meets its
hypotheses, clause by clause. -/

namespace Sys2Proof.Tests

open Sys2Proof Sys2Proof.Machine

/-! ## Small states and frames -/

/-- Profile W, MSGID_RESET 0. -/
def freshW : State := State.resetWith { profile := .w, msgIdReset := 0 }

/-- Just after reset, with bytes in SRC. -/
def rx (bytes : List Byte) : State := { State.reset with src := bytes }

/-- "abc". -/
def abc : List Byte := [0x61, 0x62, 0x63]

/-- Frame G of section 2.5. -/
def frameG : List Byte := [0x02, 0x07, 0, 0, 0, 0, 0, 0x61, 0x62, 0x63] ++ List.replicate 1011 0 ++ [0xD0, 0x98, 0x03]

/-- The same content in profile W, section 2.3. -/
def frameGW : List Byte :=
  [0x02, 0x07, 0, 0, 0, 0, 0, 0x61, 0x62, 0x63] ++ List.replicate 1009 0 ++ [0xD0, 0x98, 0x65, 0xCA, 0x03]

/-- The frames of section 2.5 that are zero but for the header and the markers, by header bytes. -/
def frameZ (b1 b2 : Byte) : List Byte := [0x02, b1, b2] ++ List.replicate 1020 0 ++ [0x03]

/-- The tests' host, with the default RESERVED_FILL (R195). Its MAIN_WATERMARK 0x11111111, SUB_WATERMARK(i) = i,
MAX_SUB_COUNT 2 and its two policies are the tests' own pick, as R191 lets a test bench pick and asks it to say: the spec
gives no value for any of them. DESIGN CHOICE, log 26. -/
def host : HostParams :=
  { mainWatermark := 0x11111111, subWatermark := fun i => BitVec.ofNat 32 i, maxSubCount := 2
    errorPolicy := .continue, padPolicy := .none }

/-- The two sub-binaries of program P3. -/
def blobsP3 : List (List Byte) := [List.replicate 2048 0xAA, List.replicate 1024 0x55]

/-- An outcome is a next state. -/
def isNext (o : Host.Outcome State Fault Refusal) : Bool :=
  match o with
  | .next _ => true
  | .fault _ => false
  | .refused _ => false

theorem exists_next {o : Host.Outcome State Fault Refusal} (h : isNext o = true) : ∃ t, o = .next t := by
  cases o with
  | next t => exact ⟨t, rfl⟩
  | fault _ => cases h
  | refused _ => cases h

/-- VAL.CHUNK always completes. -/
theorem valChunk_next (s : State) : exec .valChunk s = .next (runOp .valChunk s) := by
  have h : ∃ t, execValChunk s = .next t := by
    unfold execValChunk
    split
    · exact ⟨_, rfl⟩
    · split <;> exact ⟨_, rfl⟩
  obtain ⟨t, ht⟩ := h
  rw [runOp, exec, ht]

/-! ## WellFormed: its one check refuses an operand of 2^32 bytes -/

theorem test_wellFormed_blob_too_long : (Instr.encBlob (List.replicate (2 ^ 32) 0)).wellFormed = false := by
  simp only [Instr.wellFormed, List.length_replicate, blobLimit]; decide

theorem blob_too_long : ¬(List.replicate (2 ^ 32) (0 : Byte)).length < blobLimit := by
  rw [List.length_replicate, blobLimit]; exact lt_irrefl _

theorem decode_blob_rejects {bs : List Byte} (h : ¬bs.length < blobLimit) :
    decode .request (3 :: bs) = .error .blobTooLong := by
  change (operandsB bs).map Instr.encBlob = _
  rw [operandsB, if_neg h]; rfl

theorem test_decode_blob_too_long : decode .request (3 :: List.replicate (2 ^ 32) 0) = .error .blobTooLong :=
  decode_blob_rejects blob_too_long

theorem test_exec_blob_too_long :
    exec (.encBlob (List.replicate (2 ^ 32) 0)) State.reset = .refused .blobTooLong := by
  rw [exec, execEncBlob, if_neg blob_too_long]

/-! ## Decoding, from words written out of R100, R101, R81 and R90 -/

theorem test_decode_crc : decode .request [0b00000000, 0x61, 0x62, 0x63] = .ok (.crcSpan abc) := by decide

theorem test_decode_encInit : decode .request [0b00000001] = .ok .encInit := by decide

/-- R100's ENC.CHUNK with `off = 0xDEADBEEF`, little-endian (R50). -/
theorem test_decode_encChunk :
    decode .request [0b00000010, 0xEF, 0xBE, 0xAD, 0xDE, 0x01, 0x02] = .ok (.encChunk 0xDEADBEEF [0x01, 0x02]) := by
  decide

theorem test_decode_encBlob : decode .request [0b00000011, 0x61] = .ok (.encBlob [0x61]) := by decide

theorem test_decode_valInit : decode .request [0b00000100, 0x90, 0, 0, 0] = .ok (.valInit 144) := by decide

theorem test_decode_valChunk : decode .request [0b00000101] = .ok .valChunk := by decide

theorem test_decode_reserved :
    decode .request [0b00000110] = .ok .reserved6 ∧ decode .request [0b00000111] = .ok .reserved7 := by decide

/-- Section 2.2: bytes `0E 10` are ID 4, LEN 14; `FA FF` are ID 63, LEN 1018; the rows of R90. -/
theorem test_decode_header :
    decode .header [0x0E, 0x10] = .ok (.chunkHeader 4 14) ∧ decode .header [0xFA, 0xFF] = .ok (.chunkHeader 63 1018) ∧
    decode .header [0x09, 0x14] = .ok (.chunkHeader 5 9) ∧ decode .header [0x08, 0xA8] = .ok (.chunkHeader 42 8) := by
  decide

theorem test_decode_markers :
    decode .marker [0b00000010] = .ok .chunkStart ∧ decode .marker [0b00000011] = .ok .chunkEnd := by decide

theorem test_decode_rejects :
    decode .request [] = .error .noOpsel ∧ decode .request [8] = .error .opselTooWide ∧
    decode .request [4, 0, 0, 0] = .error .operandMissing ∧ decode .request [1, 0] = .error .operandExtra ∧
    decode .header [0] = .error .headerSize ∧ decode .marker [4] = .error .markerValue := by decide

/-- The opcode table's rows as table words (log 6). -/
theorem test_decodeTableWord :
    decodeTableWord 8 0 = some (.crcSpan []) ∧ decodeTableWord 8 1 = some .encInit ∧
    decodeTableWord 8 2 = some (.encChunk 0 [0]) ∧ decodeTableWord 8 3 = some (.encBlob [0]) ∧
    decodeTableWord 8 4 = some (.valInit 0) ∧ decodeTableWord 8 5 = some .valChunk ∧
    decodeTableWord 8 6 = some .reserved6 ∧ decodeTableWord 8 7 = some .reserved7 ∧
    decodeTableWord 16 0x1409 = some (.chunkHeader 5 9) ∧ decodeTableWord 8 8 = none := by decide

/-- The next step runs the word placed where the machine fetches. -/
theorem test_withFetchWord :
    step (State.reset.withFetchWord 8 1) = exec .encInit State.reset ∧
    step (State.reset.withFetchWord 16 0x1409) = exec (.chunkHeader 5 9) State.reset :=
  ⟨rfl, rfl⟩

/-! ## One instruction, one step -/

/-- Section 2.1. -/
theorem test_crc_vectors :
    crc32z [] = 0 ∧ crc32z [0x01] = 0x77073096 ∧ crc32z [0x80] = 0xEDB88320 ∧ crc32z [0x01, 0x00] = 0x191B3141 ∧
    crc32z [0x31, 0x32, 0x33, 0x34, 0x35, 0x36, 0x37, 0x38, 0x39] = 0x2DFD2D88 ∧
    crc32z [0xFF, 0xFF, 0xFF, 0xFF] = 0xDEBB20E3 := by decide +kernel

/-- Section 2.1, in the completion. -/
theorem test_crcSpan :
    (runOp (.crcSpan ([0, 0, 0, 0] ++ abc)) State.reset).completion =
      some { code := .ok, value := .crc 0xCA6598D0 } := by decide +kernel

theorem test_encInit :
    (runOp .encInit (State.resetWith { profile := .t, msgIdReset := 9 })).txId = 9 ∧
    (runOp .encInit { State.reset with txId := 5 }).txId = 0 := by decide

/-- Section 2.3, rows 1 and 2. -/
theorem test_encChunk :
    (runOp (.encChunk 0 abc) State.reset).sink = frameG ∧
    (runOp (.encChunk 1014 [0x68, 0x65, 0x6C, 0x6C, 0x6F]) { State.reset with txId := 5 }).sink =
      [0x02, 0x09, 0x14, 0xF6, 0x03, 0, 0, 0x68, 0x65, 0x6C, 0x6C, 0x6F] ++ List.replicate 1009 0 ++
        [0x68, 0xEC, 0x03] ∧
    (runOp (.encChunk 0 abc) freshW).sink = frameGW := by decide +kernel

/-- Section 2.3, the id wrap and the two BadRequest rows. -/
theorem test_encChunk_wraps_and_refuses :
    (runOp (.encChunk 0 abc) { State.reset with txId := 63 }).txId = 0 ∧
    runOp (.encChunk 0 []) { State.reset with txId := 7 } =
      { State.reset with txId := 7, completion := some { code := .badRequest, value := .none } } ∧
    (runOp (.encChunk 0 (List.replicate 1015 0)) State.reset).completion =
      some { code := .badRequest, value := .none } ∧
    (runOp (.encChunk 0 (List.replicate 1013 0)) freshW).completion =
      some { code := .badRequest, value := .none } := by decide +kernel

/-- Section 2.4, rows 1014 and 1015 in both profiles, and chunk 1's first bytes by R95. -/
theorem test_encBlob :
    (runOp (.encBlob (List.replicate 1014 0)) State.reset).completion = some { code := .ok, value := .chunks 1 } ∧
    (runOp (.encBlob (List.replicate 1015 0)) State.reset).completion = some { code := .ok, value := .chunks 2 } ∧
    (runOp (.encBlob (List.replicate 1015 0)) freshW).completion = some { code := .ok, value := .chunks 2 } ∧
    (runOp (.encBlob (List.replicate 1015 0)) State.reset).txId = 2 ∧
    slice (runOp (.encBlob (List.replicate 1015 0)) State.reset).sink 1024 7 = [0x02, 0x05, 0x04, 0xF6, 0x03, 0, 0] := by
  decide +kernel

theorem test_encBlob_empty :
    runOp (.encBlob []) State.reset = { State.reset with completion := some { code := .ok, value := .chunks 0 } } := by
  decide

theorem test_valInit :
    (runOp (.valInit 144) { State.reset with rxHalt := 1, rxSticky := 8, rxStatus := 3 }) =
      { State.reset with rxCount := 144, completion := some { code := .ok, value := .none } } := by decide

/-- Section 2.5, row G. -/
theorem test_valChunk_accepts :
    runOp .valChunk (rx frameG) =
      { State.reset with
        srcPos := 1024, rxCount := 3, rxLen := 7, rbuf := abc
        completion := some { code := .ok, value := .bytesWritten 3 } } := by decide +kernel

/-- Section 2.5, the rejecting rows: code, status, sticky bits, what is left of SRC. -/
theorem test_valChunk_rejects :
    runOp .valChunk (rx (frameG.set 0 0x03)) =
      { State.reset with
        srcPos := 1024, rxStatus := 1, rxSticky := 0b00010
        completion := some { code := .badMarker, value := .none } } ∧
    runOp .valChunk (rx (frameG.set 8 0x63)) =
      { State.reset with
        srcPos := 1024, rxStatus := 2, rxSticky := 0b00100
        completion := some { code := .checksumMismatch, value := .none } } ∧
    runOp .valChunk (rx (frameG.set 1 0x03)) =
      { State.reset with
        srcPos := 1024, rxStatus := 4, rxSticky := 0b10000
        completion := some { code := .badLength, value := .none } } ∧
    runOp .valChunk (rx (frameG.take 1000)) =
      { rx (frameG.take 1000) with
        rxStatus := 3, rxSticky := 0b01000, rxHalt := 1
        completion := some { code := .truncatedInput, value := .none } } := by decide +kernel

theorem test_reserved :
    (runOp .reserved6 State.reset).completion = some { code := .badOp, value := .none } ∧
    (runOp .reserved7 State.reset).completion = some { code := .badOp, value := .none } := by decide

theorem test_wire :
    (runOp .chunkStart State.reset).src = [0x02] ∧ (runOp (.chunkHeader 1 1018) State.reset).src = [0xFA, 0x07] ∧
    (runOp .chunkEnd State.reset).src = [0x03] := by decide

/-- Program P3: the descriptors' bytes. -/
theorem test_descriptors_P3 :
    (buildDescriptors host blobsP3).2.map (fun d => slice (d.encode 0) 4 8) =
      [[0x90, 0, 0, 0, 0, 0x08, 0, 0], [0x90, 0x08, 0, 0, 0, 0x04, 0, 0]] ∧
    slice ((buildDescriptors host blobsP3).1.encode 0) 4 4 = [0x02, 0, 0, 0] ∧ transferEnd blobsP3 = 3216 := by
  decide +kernel

/-- R195: the reserved bytes as the host writes them; R196: the last end offset is not rounded up, 80 + 1. -/
theorem test_reserved_fill_and_end :
    slice ((buildDescriptors host [[1]]).1.encode host.reservedFill) 8 8 = zeros 8 ∧ transferEnd [[1]] = 81 ∧
    transferEnd [[1], [2]] = 144 + 4 + 1 := by decide

/-! ## Witnesses: concrete inputs that meet the hypotheses of the obligations -/

theorem witness_ResetEventSetsRegistersKeepsStreams :
    { State.reset with script := [.reset] }.script = .reset :: [] := rfl

theorem witness_StepRunsTheDecodedInstruction :
    { State.reset with script := [.issue .request [1]] }.script = .issue .request [1] :: [] ∧
    decode .request [1] = .ok .encInit := by decide

theorem witness_StepDoesTheHostsOtherActs :
    State.reset.script = [] ∧
    { State.reset with script := [.appendSink [1]] }.script = .appendSink [1] :: [] ∧
    { State.reset with script := [.supplySrc [1]] }.script = .supplySrc [1] :: [] ∧
    { State.reset with script := [.carry 0] }.script = .carry 0 :: [] ∧
    ({ rx [1] with script := [.readSrc 1] }.script = .readSrc 1 :: [] ∧ 1 ≤ (rx [1]).src.length) ∧
    ({ rx [1] with script := [.readSrc 2] }.script = .readSrc 2 :: [] ∧ (rx [1]).src.length < 2) ∧
    decode .request [8] = .error .opselTooWide := by decide

theorem witness_OperationCodesDecode : 7 < (8#8).toNat := by decide

theorem witness_DecodeOfEncode :
    (Instr.crcSpan abc).wellFormed = true ∧ (Instr.encBlob abc).wellFormed = true ∧
    (Instr.chunkHeader 63 1023).wellFormed = true := by decide

theorem witness_DecodeAcceptsOnlyEncodings :
    decode .request [1] = .ok .encInit ∧ Instr.encInit ≠ .reserved6 ∧ Instr.encInit ≠ .reserved7 := by decide

theorem witness_CrcIsLinear : abc.length = [1, 2, 3].length := rfl

/-- A change of one bit, of one byte, and of 32 bits across five bytes. -/
theorem witness_CrcDetectsBursts :
    (([0, 0x80] : List Byte).length = ([1, 2] : List Byte).length ∧ 0 < 1 ∧ 1 < 2 ^ 32 ∧
      unle [0, 0x80] = 1 * 2 ^ 15) ∧
    (([0xFF] : List Byte).length = ([1] : List Byte).length ∧ 0 < 255 ∧ 255 < 2 ^ 32 ∧ unle [0xFF] = 255 * 2 ^ 0) ∧
    (([0xF0, 0xFF, 0xFF, 0xFF, 0x0F] : List Byte).length = (zeros 5).length ∧ 0 < 2 ^ 32 - 1 ∧
      2 ^ 32 - 1 < 2 ^ 32 ∧ unle [0xF0, 0xFF, 0xFF, 0xFF, 0x0F] = (2 ^ 32 - 1) * 2 ^ 4) := by decide +kernel

theorem witness_CrcLowHalfMissesOnePattern :
    (0xF1#8 ≠ 0 ∧ (zeros 499).length ≤ 1017) ∧ (0x01#8 ≠ 0 ∧ (zeros 1017).length ≤ 1017) := by decide +kernel

/-- The lengths 1 and CONTENT_CAP, in both profiles. -/
theorem witness_EncChunkAppendsOneChunk :
    (1 ≤ ([0] : List Byte).length ∧ ([0] : List Byte).length ≤ State.reset.layout.contentCap) ∧
    (1 ≤ (zeros 1014).length ∧ (zeros 1014).length ≤ State.reset.layout.contentCap) ∧
    (1 ≤ (zeros 1012).length ∧ (zeros 1012).length ≤ freshW.layout.contentCap) := by decide +kernel

/-- The lengths 0 and CONTENT_CAP + 1, in both profiles. -/
theorem witness_EncChunkRefusesLength :
    (1 ≤ (zeros 1014).length ∧ (zeros 1014).length ≤ State.reset.layout.contentCap) ∧
    ([] : List Byte).length = 0 ∧ State.reset.layout.contentCap < (zeros 1015).length ∧
    freshW.layout.contentCap < (zeros 1013).length := by decide +kernel

theorem witness_EmittedChunkBounds :
    1 ≤ (zeros 1014).length ∧ (zeros 1014).length ≤ State.reset.layout.contentCap := by decide +kernel

theorem witness_EncBlobEmitsItsChunks : ([] : List Byte).length < 2 ^ 32 ∧ (zeros 1015).length < 2 ^ 32 := by
  decide +kernel

/-- A chunk that is not the last, and a last chunk, at the sizes 1015 and 1014. -/
theorem witness_BlobChunksPartitionTheBlob :
    0 + 1 < chunkCount Profile.t.layout (zeros 1015).length ∧
    1 + 1 = chunkCount Profile.t.layout (zeros 1015).length ∧
    0 + 1 = chunkCount Profile.t.layout (zeros 1014).length := by decide +kernel

theorem witness_EncBlobIsEncChunksInOrder : abc.length < 2 ^ 32 := by decide

theorem witness_ValChunkHaltedChangesNothing : { State.reset with rxHalt := 1 }.rxHalt = 1 := rfl

theorem witness_ValChunkTruncatedHalts :
    State.reset.rxHalt = 0 ∧ State.reset.src.length < 1024 ∧
    (rx (frameG.take 1023)).rxHalt = 0 ∧ (rx (frameG.take 1023)).src.length < 1024 := by decide +kernel

/-- A wrong start marker, and a wrong end marker. -/
theorem witness_ValChunkRejectsMarkers :
    ((rx (frameG.set 0 0)).rxHalt = 0 ∧ 1024 ≤ (rx (frameG.set 0 0)).src.length ∧
      byteAt (rx (frameG.set 0 0)).src 0 ≠ 0x02) ∧
    ((rx (frameG.set 1023 2)).rxHalt = 0 ∧ 1024 ≤ (rx (frameG.set 1023 2)).src.length ∧
      byteAt (rx (frameG.set 1023 2)).src 1023 ≠ 0x03) := by decide +kernel

/-- LEN 3 and LEN 1019 in profile T, LEN 1017 in profile W; LEN 4 and LEN 1018. -/
theorem witness_ValChunkRejectsLength :
    (∀ s ∈ [rx (frameZ 3 0), rx (frameZ 0xFB 3), { freshW with src := frameZ 0xF9 3 }, rx (frameZ 4 0),
        rx (frameZ 0xFA 3)],
      s.rxHalt = 0 ∧ 1024 ≤ s.src.length ∧ byteAt s.src 0 = 0x02 ∧ byteAt s.src 1023 = 0x03) ∧
    memRead (rx (frameZ 3 0)).src 1 2 % 1024 < 4 ∧ 4 ≤ memRead (rx (frameZ 4 0)).src 1 2 % 1024 ∧
    memRead (rx (frameZ 0xFA 3)).src 1 2 % 1024 ≤ State.reset.layout.dataCap ∧
    State.reset.layout.dataCap < memRead (rx (frameZ 0xFB 3)).src 1 2 % 1024 ∧
    freshW.layout.dataCap < memRead (frameZ 0xF9 3) 1 2 % 1024 := by decide +kernel

theorem witness_ValChunkRejectsChecksum :
    ∃ s : State, s.rxHalt = 0 ∧ 1024 ≤ s.src.length ∧ byteAt s.src 0 = 0x02 ∧ byteAt s.src 1023 = 0x03 ∧
      4 ≤ memRead s.src 1 2 % 1024 ∧ memRead s.src 1 2 % 1024 ≤ s.layout.dataCap ∧
      (crc32z (slice s.src 3 (memRead s.src 1 2 % 1024))).toNat % 2 ^ (8 * s.layout.cksumBytes) ≠
        memRead s.src s.layout.ckOff s.layout.cksumBytes :=
  ⟨rx (frameG.set 8 0x63), by decide +kernel⟩

/-- The span of the full zero frame has checksum 0 (R127). -/
theorem frameZ_span : crc32z (slice (frameZ 0xFA 3) 3 (memRead (frameZ 0xFA 3) 1 2 % 1024)) = 0 := by
  have h1 : memRead (frameZ 0xFA 3) 1 2 % 1024 = 1018 := by decide +kernel
  have h2 : slice (frameZ 0xFA 3) 3 1018 = zeros 1018 := by decide +kernel
  have h3 : crc32z (zeros 1018) = 0 := crcFrom_zeros 1018
  rw [h1, h2, h3]

theorem frameZ_checksum {s : State} (hs : s.src = frameZ 0xFA 3) (hl : s.layout = State.reset.layout) :
    (crc32z (slice s.src 3 (memRead s.src 1 2 % 1024))).toNat % 2 ^ (8 * s.layout.cksumBytes) =
      memRead s.src s.layout.ckOff s.layout.cksumBytes := by
  rw [hs, hl, frameZ_span]
  decide +kernel

/-- LEN 7, and the bounds 4 and 1018. -/
theorem witness_ValChunkAccepts :
    (∀ s ∈ [rx frameG, rx (frameZ 4 0), rx (frameZ 0xFA 3)],
      s.rxHalt = 0 ∧ 1024 ≤ s.src.length ∧ byteAt s.src 0 = 0x02 ∧ byteAt s.src 1023 = 0x03 ∧
      4 ≤ memRead s.src 1 2 % 1024 ∧ memRead s.src 1 2 % 1024 ≤ s.layout.dataCap) ∧
    (∀ s ∈ [rx frameG, rx (frameZ 4 0)],
      (crc32z (slice s.src 3 (memRead s.src 1 2 % 1024))).toNat % 2 ^ (8 * s.layout.cksumBytes) =
        memRead s.src s.layout.ckOff s.layout.cksumBytes) ∧
    (crc32z (slice (rx (frameZ 0xFA 3)).src 3 (memRead (rx (frameZ 0xFA 3)).src 1 2 % 1024))).toNat %
        2 ^ (8 * (rx (frameZ 0xFA 3)).layout.cksumBytes) =
      memRead (rx (frameZ 0xFA 3)).src (rx (frameZ 0xFA 3)).layout.ckOff (rx (frameZ 0xFA 3)).layout.cksumBytes := by
  exact ⟨by decide +kernel, by decide +kernel, frameZ_checksum rfl rfl⟩

theorem witness_ValidatorAcceptsEncoderOutput :
    ∃ e' F, 1 ≤ abc.length ∧ abc.length ≤ State.reset.layout.contentCap ∧
      exec (.encChunk 0 abc) State.reset = .next e' ∧ e'.sink = State.reset.sink ++ F ∧
      (rx (F ++ [])).config.profile = State.reset.config.profile ∧ (rx (F ++ [])).rxHalt = 0 ∧
      (rx (F ++ [])).src = F ++ [] :=
  ⟨_, _, by decide, by decide, rfl, rfl, rfl, rfl, rfl⟩

theorem witness_BlobRoundTrip :
    ∃ e' F, abc.length < 2 ^ 32 ∧ exec (.encBlob abc) State.reset = .next e' ∧ e'.sink = State.reset.sink ++ F ∧
      (rx F).config.profile = State.reset.config.profile ∧ (rx F).rxHalt = 0 ∧ (rx F).src = F ∧
      0 < chunkCount (rx F).layout abc.length := by
  obtain ⟨e', h⟩ := exists_next (o := exec (.encBlob abc) State.reset) (by decide +kernel)
  refine ⟨e', e'.sink, by decide, h, rfl, rfl, rfl, rfl, ?_⟩
  change 0 < chunkCount State.reset.layout abc.length
  decide

/-- LEN 4 and LEN 1018, ID 63. -/
theorem witness_ZeroFrameIsAccepted :
    ∀ len ∈ [4#10, 1018#10], 4 ≤ len.toNat ∧ len.toNat ≤ State.reset.layout.dataCap ∧
      (rx ([0x02] ++ le 2 (packHeader 63 len).toNat ++ zeros 1020 ++ [0x03] ++ [])).rxHalt = 0 := by decide +kernel

/-- Frame G, and frame G with ID 63 and a padding byte 0x77. -/
theorem witness_IdAndPaddingAreNotChecked :
    ∃ (G : List Byte) (t u : State), G ≠ frameG ∧ frameG.length = 1024 ∧
      AgreeWhereChecked State.reset.layout frameG G ∧ frameLenOk State.reset.layout frameG = true ∧
      exec .valChunk { State.reset with src := frameG ++ [] } = .next t ∧
      exec .valChunk { State.reset with src := G ++ [] } = .next u := by
  obtain ⟨t, ht⟩ := exists_next (o := exec .valChunk { State.reset with src := frameG ++ [] }) (by decide +kernel)
  obtain ⟨u, hu⟩ := exists_next
    (o := exec .valChunk { State.reset with src := (frameG.set 2 0xFC).set 500 0x77 ++ [] }) (by decide +kernel)
  refine ⟨_, t, u, by decide +kernel, by decide +kernel, ⟨by simp, fun i h2 h => ?_, by decide +kernel⟩,
    by decide +kernel, ht, hu⟩
  have hl : (frameLen State.reset.layout frameG).toNat = 7 := by decide +kernel
  rw [hl] at h
  have hk : State.reset.layout.ckOff = 1021 := rfl
  have h5 : 500 ≠ i := by omega
  simp [byteAt, h5, Ne.symm h2]

theorem witness_OneByteChangeDetectedInProfileW :
    ∃ t : State, freshW.config.profile = .w ∧ frameGW.length = 1024 ∧ freshW.rxHalt = 0 ∧
      exec .valChunk { freshW with src := frameGW ++ [] } = .next t ∧
      (∃ v, t.completion = some { code := .ok, value := v }) ∧
      6 < (frameLen freshW.layout frameGW).toNat ∧ (1#8 ≠ 0) := by
  refine ⟨runOp .valChunk { freshW with src := frameGW ++ [] }, rfl, by decide +kernel, rfl, valChunk_next _,
    ⟨.bytesWritten 3, by decide +kernel⟩, by decide +kernel, by decide⟩

/-- The exception (span index 518 of LEN 1018, XOR 0xF1) and a change beside it. -/
theorem witness_OneByteChangeInProfileT :
    ∃ t : State, State.reset.config.profile = .t ∧ (frameZ 0xFA 3).length = 1024 ∧ State.reset.rxHalt = 0 ∧
      exec .valChunk { State.reset with src := frameZ 0xFA 3 ++ [] } = .next t ∧
      (∃ v, t.completion = some { code := .ok, value := v }) ∧
      518 < (frameLen State.reset.layout (frameZ 0xFA 3)).toNat ∧
      518 + 500 = (frameLen State.reset.layout (frameZ 0xFA 3)).toNat ∧
      1017 < (frameLen State.reset.layout (frameZ 0xFA 3)).toNat ∧ (0xF1#8 ≠ 0) := by
  have h : frameChecksumOk State.reset.layout (frameZ 0xFA 3) = true := by
    rw [layout_eq, frameChecksumOk_iff, frameZ_span]; decide +kernel
  have hx := execValChunk_frame (s := { State.reset with src := frameZ 0xFA 3 ++ [] }) (F := frameZ 0xFA 3)
    (rest := []) rfl (by decide +kernel) rfl
  have hl : (State.dropSrc 1024 { State.reset with src := frameZ 0xFA 3 ++ [] }).layout = State.reset.layout := by
    rw [State.dropSrc_layout]; rfl
  have hok := (validateFrame_ok_iff (State.dropSrc 1024 { State.reset with src := frameZ 0xFA 3 ++ [] })
    (frameZ 0xFA 3)).mpr ⟨by decide +kernel, by decide +kernel, by rw [hl]; exact h⟩
  exact ⟨_, rfl, by decide +kernel, rfl, hx, hok, by decide +kernel, by decide +kernel, by decide +kernel, by decide⟩

theorem witness_ChecksumFieldChangeDetected :
    ∃ t : State, frameG.length = 1024 ∧ State.reset.rxHalt = 0 ∧
      exec .valChunk { State.reset with src := frameG ++ [] } = .next t ∧
      (∃ v, t.completion = some { code := .ok, value := v }) ∧
      ([0xD1, 0x98] : List Byte).length = State.reset.layout.cksumBytes ∧
      [0xD1, 0x98] ≠ slice frameG State.reset.layout.ckOff State.reset.layout.cksumBytes := by
  refine ⟨runOp .valChunk { State.reset with src := frameG ++ [] }, by decide +kernel, rfl, valChunk_next _,
    ⟨.bytesWritten 3, by decide +kernel⟩, by decide, by decide +kernel⟩

theorem witness_AnswerDependsOnTheFrameAlone :
    ∃ t t' : State, { rx frameG with rxCount := 9 }.config.profile = (rx frameG).config.profile ∧
      { rx frameG with rxCount := 9 }.rxHalt = (rx frameG).rxHalt ∧ 1024 ≤ (rx frameG).src.length ∧
      exec .valChunk (rx frameG) = .next t ∧ exec .valChunk { rx frameG with rxCount := 9 } = .next t' :=
  ⟨runOp .valChunk (rx frameG), runOp .valChunk { rx frameG with rxCount := 9 }, rfl, rfl, by decide +kernel,
    valChunk_next _, valChunk_next _⟩

theorem witness_RegistersHaveTheirWriters :
    ∃ t : State, exec (.encChunk 0 abc) State.reset = .next t := ⟨_, rfl⟩

theorem witness_StreamsMoveAsTheRulesSay :
    ∃ t : State, Instr.valChunk.isRequest = true ∧ exec .valChunk (rx frameG) = .next t :=
  ⟨runOp .valChunk (rx frameG), by decide, valChunk_next _⟩

/-- A rejected frame, a truncated one, and a reserved code. -/
theorem witness_ErrorsAreLocal :
    (Instr.valChunk.isRequest = true ∧ Instr.reserved6.isRequest = true) ∧
    (runOp .valChunk (rx (frameG.set 0 0))).completion = some { code := .badMarker, value := .none } ∧
    (runOp .valChunk State.reset).completion = some { code := .truncatedInput, value := .none } ∧
    (runOp .reserved6 State.reset).completion = some { code := .badOp, value := .none } ∧
    isNext (exec .valChunk (rx (frameG.set 0 0))) = true := by decide +kernel

theorem witness_StickyBitsStick :
    ∃ t : State, exec .valChunk State.reset = .next t ∧ (∀ count0, Instr.valChunk ≠ .valInit count0) ∧ 1 ≤ 3 ∧ 3 ≤ 4 :=
  ⟨_, rfl, fun _ h => (by cases h), by decide, by decide⟩

theorem witness_StickyTellsWhetherAnyChunkFailed :
    State.reset.Clean ∧ (∀ i ∈ [Instr.encInit, .valChunk], i.isRequest = true) ∧
    (∀ i ∈ [Instr.encInit, .valChunk], ∀ count0, i ≠ .valInit count0) := by
  refine ⟨rfl, by decide, ?_⟩
  intro i hi count0 h
  subst h
  simp at hi

theorem witness_OnlyInitOrResetLeavesHalt :
    ∃ t : State, { State.reset with rxHalt := 1, script := [issueInstr (.valInit 0)] }.rxHalt = 1 ∧
      step { State.reset with rxHalt := 1, script := [issueInstr (.valInit 0)] } = .next t ∧ t.rxHalt ≠ 1 :=
  ⟨_, rfl, rfl, by decide⟩

theorem witness_EncoderIgnoresValidator :
    ∃ t : State, { State.reset with rxHalt := 1 }.config = State.reset.config ∧
      { State.reset with rxHalt := 1 }.txId = State.reset.txId ∧
      { State.reset with rxHalt := 1 }.sink = State.reset.sink ∧
      exec (.encChunk 0 abc) State.reset = .next t := ⟨_, rfl, rfl, rfl, rfl⟩

theorem witness_RegsAgreeStep :
    ∃ t : State, State.reset.RegsAgree ∧
      { State.reset with script := [issueInstr .valChunk] }.RegsAgree ∧
      step { State.reset with script := [issueInstr .valChunk] } = .next t := ⟨_, by decide, by decide, rfl⟩

/-- Two sub-binaries, the second of one byte; the descriptors of both exist. -/
theorem witness_OffsetsAreAlignedAndChained :
    transferEnd [abc, [1]] < 2 ^ 32 ∧ ((buildDescriptors host [abc, [1]]).2[0]?).isSome = true ∧
    ((buildDescriptors host [abc, [1]]).2[0 + 1]?).isSome = true := by decide

theorem witness_SenderEmitsTheStream : transferEnd blobsP3 < 2 ^ 32 := by decide +kernel

/-- Too few bytes for the main descriptor, a count of 3, and a count of 1 with too few bytes for its descriptor. -/
theorem witness_ReceiverChecksTheCount :
    State.reset.src.length < 16 ∧
    (16 ≤ (rx ([0, 0, 0, 0, 3] ++ zeros 11)).src.length ∧
      host.maxSubCount < memRead (rx ([0, 0, 0, 0, 3] ++ zeros 11)).src 4 4) ∧
    (16 ≤ (rx ([0, 0, 0, 0, 1] ++ zeros 11)).src.length ∧
      memRead (rx ([0, 0, 0, 0, 1] ++ zeros 11)).src 4 4 ≤ host.maxSubCount ∧
      (rx ([0, 0, 0, 0, 1] ++ zeros 11)).src.length < 16 + 64 * memRead (rx ([0, 0, 0, 0, 1] ++ zeros 11)).src 4 4) := by
  decide +kernel

theorem witness_ReceiveLoopFollowsThePolicy :
    ∃ t : State, (rx (frameG.set 0 0)).rxCount.toNat + 0 < 1 ∧ exec .valChunk (rx (frameG.set 0 0)) = .next t ∧
      t.completion = some { code := .badMarker, value := .none } ∧ host.errorPolicy = .continue ∧
      { host with errorPolicy := .abort }.errorPolicy = .abort :=
  ⟨runOp .valChunk (rx (frameG.set 0 0)), by decide, valChunk_next _, by decide +kernel, rfl, rfl⟩

/-- The descriptor of "abc" as the one sub-binary of a transfer, with a checksum to choose. Its watermark 0 is the tests'
own pick, log 26. -/
def subAbc (checksum : Word) : SubDescriptor :=
  { watermark := 0, startOffset := 80, size := 3, checksum := checksum }

/-- A success under each policy, a success after a rejected chunk (its sticky bit is seen), and a mismatch. -/
theorem witness_ReceiverLooksAtSticky :
    (receiveAndVerify { host with errorPolicy := .abort } [subAbc 0xCA6598D0] (rx frameG)).1 =
      { result := .success, sticky := some 0 } ∧
    (receiveAndVerify host [subAbc 0xCA6598D0] (rx (frameG.set 0 0 ++ frameG))).1 =
      { result := .success, sticky := some 0b00010 } ∧
    (receiveAndVerify host [subAbc 0] (rx frameG)).1 = { result := .checksumMismatch 0, sticky := some 0 } := by
  decide +kernel

theorem witness_ReceiveLoopFuelSuffices : State.reset.src.length < 1 ∧ State.reset.src.length < 2 := by decide

/-- One sub-binary of four bytes without pad bytes, and sub-binaries of three bytes and one under
receiver_inserts_zeros. -/
theorem witness_EndToEndTransferSucceeds :
    ∀ c ∈ [(host, [[1, 2, 3, 4]]), ({ host with padPolicy := .receiverInsertsZeros }, [abc, [1]])],
      ∃ t : State, c.2 ≠ [] ∧ transferEnd c.2 < 2 ^ 32 ∧ c.2.length ≤ c.1.maxSubCount ∧
        (c.1.padPolicy = .none → ∀ blob ∈ c.2, blob.length % 4 = 0) ∧ State.reset.sink = [] ∧
        runSteps (senderScript c.1 c.2).length { State.reset with script := senderScript c.1 c.2 } = .next t ∧
        (rx t.sink).config.profile = State.reset.config.profile ∧ (rx t.sink).src = t.sink ∧ (rx t.sink).rbuf = [] := by
  intro c hc
  obtain ⟨t, ht⟩ := exists_next
    (o := runSteps (senderScript c.1 c.2).length { State.reset with script := senderScript c.1 c.2 }) (by
      rcases List.mem_pair.mp hc with rfl | rfl <;> decide +kernel)
  refine ⟨t, ?_, ?_, ?_, ?_, rfl, ht, rfl, rfl, rfl⟩ <;> rcases List.mem_pair.mp hc with rfl | rfl <;> decide

end Sys2Proof.Tests
end

section
/-! PROOFS. The registers and the streams of the state (spec/10_state.md): what an instruction and a step can do to
them, said once, and the obligations that follow. -/

namespace Sys2Proof.Machine

/-! ## Every instruction, by what it does to the state -/

/-- The two operations that write chunks to SINK (R141, R146). -/
def EmitsChunks (i : Instr) : Prop := (∃ off content, i = .encChunk off content) ∨ (∃ blob, i = .encBlob blob)

theorem buildFrame_length {s : State} (off : Word) {content : List Byte}
    (h : content.length ≤ s.layout.contentCap) : (buildFrame s.layout s.txId off content).length = 1024 := by
  rw [layout_eq] at h ⊢
  rw [buildFrame_eq _ _ _ _ h, chunkBytes_length _ _ _ _ h]

/-- ENC.BLOB in closed form: all chunks of the blob, TX_ID up by their number (R146, R147). -/
theorem execEncBlob_eq {blob : List Byte} (s : State) (h : blob.length < 2 ^ 32) :
    execEncBlob blob s = .next
      (((s.setTxId (s.txId + BitVec.ofNat 6 (chunkCount s.layout blob.length))).appendSink
        (chunksFrom s.layout s.txId blob 0 (chunkCount s.layout blob.length))).succeed
          (.chunks (chunkCount s.layout blob.length))) := by
  have hloop := blobLoop_eq s.config.profile blob s.txId (chunkCount s.layout blob.length) blob.length 0 s rfl rfl
    (chunkCount_le _ _) (by simp)
  rw [Nat.zero_mul, Nat.zero_min, Nat.zero_add] at hloop
  rw [execEncBlob, blobLimit, if_pos h, hloop]
  rfl

/-- Everything an instruction can do: answer and nothing else, load TX_ID, emit chunks, preset the validator, run
VAL.CHUNK (see `execValChunk_cases`), or put a wire field on SRC. -/
theorem exec_cases {i : Instr} {s t : State} (h : exec i s = .next t) :
    (∃ c, t = { s with completion := some c }) ∨
    (i = .encInit ∧ t = (s.setTxId s.config.msgIdReset).succeed .none) ∨
    (EmitsChunks i ∧ ∃ id F v, 1024 ∣ F.length ∧ t = ((s.setTxId id).appendSink F).succeed v) ∨
    (∃ count0, i = .valInit count0 ∧ t = (s.presetRx count0).succeed .none) ∨
    (i = .valChunk ∧ execValChunk s = .next t) ∨
    (i.isRequest = false ∧ ∃ bytes, t = s.supplySrc bytes) := by
  cases i with
  | crcSpan span => cases h; exact .inl ⟨_, rfl⟩
  | reserved6 => cases h; exact .inl ⟨_, rfl⟩
  | reserved7 => cases h; exact .inl ⟨_, rfl⟩
  | encInit => cases h; exact .inr (.inl ⟨rfl, rfl⟩)
  | encChunk off content =>
    rw [exec] at h
    rcases execEncChunk_cases off content s with ⟨-, e⟩ | ⟨-, hcap, e⟩ <;> rw [e] at h <;> cases h
    · exact .inl ⟨_, rfl⟩
    · exact .inr (.inr (.inl ⟨.inl ⟨_, _, rfl⟩, _, _, _, (buildFrame_length off hcap).symm.dvd, rfl⟩))
  | encBlob blob =>
    rw [exec] at h
    rw [execEncBlob_eq s (execEncBlob_next h)] at h
    cases h
    exact .inr (.inr (.inl ⟨.inr ⟨_, rfl⟩, _, _, _, ⟨_, chunksFrom_length ..⟩, rfl⟩))
  | valInit count0 => cases h; exact .inr (.inr (.inr (.inl ⟨_, rfl, rfl⟩)))
  | valChunk => exact .inr (.inr (.inr (.inr (.inl ⟨rfl, h⟩))))
  | chunkHeader id len => cases h; exact .inr (.inr (.inr (.inr (.inr ⟨rfl, _, rfl⟩))))
  | chunkStart => cases h; exact .inr (.inr (.inr (.inr (.inr ⟨rfl, _, rfl⟩))))
  | chunkEnd => cases h; exact .inr (.inr (.inr (.inr (.inr ⟨rfl, _, rfl⟩))))

/-! ## An accepted frame, field by field -/

section
variable (F : List Byte) (s : State)

@[simp] theorem State.acceptFrame_config : (s.acceptFrame F).config = s.config := rfl
@[simp] theorem State.acceptFrame_txId : (s.acceptFrame F).txId = s.txId := rfl
@[simp] theorem State.acceptFrame_rxCount :
    (s.acceptFrame F).rxCount = s.rxCount + BitVec.ofNat 32 (frameContentLen s.layout F) := rfl
@[simp] theorem State.acceptFrame_rxOffset : (s.acceptFrame F).rxOffset = frameOffset s.layout F := rfl
@[simp] theorem State.acceptFrame_rxId : (s.acceptFrame F).rxId = frameId s.layout F := rfl
@[simp] theorem State.acceptFrame_rxLen : (s.acceptFrame F).rxLen = frameLen s.layout F := rfl
@[simp] theorem State.acceptFrame_rxStatus : (s.acceptFrame F).rxStatus = 0 := rfl
@[simp] theorem State.acceptFrame_rxSticky : (s.acceptFrame F).rxSticky = s.rxSticky := rfl
@[simp] theorem State.acceptFrame_rxHalt : (s.acceptFrame F).rxHalt = s.rxHalt := rfl
@[simp] theorem State.acceptFrame_sink : (s.acceptFrame F).sink = s.sink := rfl
@[simp] theorem State.acceptFrame_src : (s.acceptFrame F).src = s.src := rfl
@[simp] theorem State.acceptFrame_srcPos : (s.acceptFrame F).srcPos = s.srcPos := rfl
@[simp] theorem State.acceptFrame_rbuf : (s.acceptFrame F).rbuf = s.rbuf ++ frameContent s.layout F := rfl
@[simp] theorem State.acceptFrame_script : (s.acceptFrame F).script = s.script := rfl
@[simp] theorem State.acceptFrame_layout : (s.acceptFrame F).layout = s.layout := rfl
@[simp] theorem State.acceptFrame_completion : (s.acceptFrame F).completion =
    some { code := .ok, value := .bytesWritten (frameContentLen s.layout F) } := rfl

end

theorem frameLen_bounds {s : State} {F : List Byte} (h : frameLenOk s.layout F = true) :
    4 ≤ (frameLen s.layout F).toNat ∧ (frameLen s.layout F).toNat ≤ s.layout.dataCap := by
  rw [layout_eq] at h ⊢
  rwa [frameLen_toNat, ← frameLenOk_iff]

theorem frameContent_length_le {s : State} {F : List Byte} (h : frameLenOk s.layout F = true) :
    (frameContent s.layout F).length ≤ s.layout.contentCap := by
  have hlen := frameLen_bounds h
  have hcap := contentCap_add s.config.profile
  have hpre := prefixBytes_eq s.config.profile
  rw [← layout_eq] at hcap hpre
  rw [frameContent, slice_length, frameContentLen]
  omega

/-! ## Who writes which register (R22) -/

/-- The seven RX registers of `t` are those of `s`. -/
def SameRx (s t : State) : Prop :=
  t.rxCount = s.rxCount ∧ t.rxOffset = s.rxOffset ∧ t.rxId = s.rxId ∧ t.rxLen = s.rxLen ∧
    t.rxStatus = s.rxStatus ∧ t.rxSticky = s.rxSticky ∧ t.rxHalt = s.rxHalt

theorem SameRx.rxSticky_eq {s t : State} : SameRx s t → t.rxSticky = s.rxSticky := fun ⟨_, _, _, _, _, h, _⟩ => h

theorem SameRx.rxHalt_eq {s t : State} : SameRx s t → t.rxHalt = s.rxHalt := fun ⟨_, _, _, _, _, _, h⟩ => h

/-- VAL.CHUNK leaves TX_ID, SINK, the configuration and the script. -/
theorem execValChunk_unchanged {s t : State} (h : execValChunk s = .next t) :
    t.txId = s.txId ∧ t.sink = s.sink ∧ t.config = s.config ∧ t.script = s.script := by
  rcases execValChunk_cases h with ⟨-, rfl⟩ | ⟨-, -, rfl⟩ | ⟨-, -, ⟨c, -, rfl⟩ | ⟨-, -, -, rfl⟩⟩ <;> simp

theorem exec_txId {i : Instr} {s t : State} (h : exec i s = .next t) :
    t.txId = s.txId ∨ i = .encInit ∨ EmitsChunks i := by
  rcases exec_cases h with
    ⟨c, rfl⟩ | ⟨hi, -⟩ | ⟨hi, -⟩ | ⟨count0, -, rfl⟩ | ⟨-, hv⟩ | ⟨-, bytes, rfl⟩
  · exact .inl rfl
  · exact .inr (.inl hi)
  · exact .inr (.inr hi)
  · exact .inl rfl
  · obtain ⟨htx, -, -, -⟩ := execValChunk_unchanged hv
    exact .inl htx
  · exact .inl rfl

theorem exec_sameRx {i : Instr} {s t : State} (h : exec i s = .next t) :
    SameRx s t ∨ (∃ count0, i = .valInit count0) ∨ i = .valChunk := by
  rcases exec_cases h with
    ⟨c, rfl⟩ | ⟨-, rfl⟩ | ⟨-, id, F, v, -, rfl⟩ | ⟨count0, hi, -⟩ | ⟨hi, -⟩ | ⟨-, bytes, rfl⟩
  · exact .inl (by simp [SameRx])
  · exact .inl (by simp [SameRx])
  · exact .inl (by simp [SameRx])
  · exact .inr (.inl ⟨count0, hi⟩)
  · exact .inr (.inr hi)
  · exact .inl (by simp [SameRx])

theorem exec_config_script {i : Instr} {s t : State} (h : exec i s = .next t) :
    t.config = s.config ∧ t.script = s.script := by
  rcases exec_cases h with
    ⟨c, rfl⟩ | ⟨-, rfl⟩ | ⟨-, id, F, v, -, rfl⟩ | ⟨count0, -, rfl⟩ | ⟨-, hv⟩ | ⟨-, bytes, rfl⟩
  · exact ⟨rfl, rfl⟩
  · exact ⟨rfl, rfl⟩
  · exact ⟨rfl, rfl⟩
  · exact ⟨rfl, rfl⟩
  · obtain ⟨-, -, hcfg, hscript⟩ := execValChunk_unchanged hv
    exact ⟨hcfg, hscript⟩
  · exact ⟨rfl, rfl⟩

/-- Settles O43: each clause is a case analysis of what an instruction can do. -/
theorem registersHaveTheirWriters : Obligations.RegistersHaveTheirWriters := fun _ _ _ h =>
  ⟨exec_txId h, exec_sameRx h, exec_config_script h⟩

/-! ## How the streams move (R32 to R34, R55) -/

theorem exec_sink {i : Instr} {s t : State} (h : exec i s = .next t) :
    t.sink = s.sink ∨ (EmitsChunks i ∧ ∃ F, t.sink = s.sink ++ F ∧ 1024 ∣ F.length) := by
  rcases exec_cases h with
    ⟨c, rfl⟩ | ⟨-, rfl⟩ | ⟨hi, id, F, v, hF, rfl⟩ | ⟨count0, -, rfl⟩ | ⟨-, hv⟩ | ⟨-, bytes, rfl⟩
  · exact .inl rfl
  · exact .inl rfl
  · exact .inr ⟨hi, F, rfl, hF⟩
  · exact .inl rfl
  · obtain ⟨-, hsink, -, -⟩ := execValChunk_unchanged hv
    exact .inl hsink
  · exact .inl rfl

/-- VAL.CHUNK takes one chunk of SRC or nothing. -/
theorem execValChunk_src {s t : State} (h : execValChunk s = .next t) :
    (t.src = s.src ∧ t.srcPos = s.srcPos) ∨
    (1024 ≤ s.src.length ∧ t.src = s.src.drop 1024 ∧ t.srcPos = s.srcPos + 1024) := by
  rcases execValChunk_cases h with ⟨-, rfl⟩ | ⟨-, -, rfl⟩ | ⟨-, hl, ⟨c, -, rfl⟩ | ⟨-, -, -, rfl⟩⟩
  · exact .inl ⟨rfl, rfl⟩
  · exact .inl ⟨rfl, rfl⟩
  · exact .inr ⟨hl, rfl, rfl⟩
  · exact .inr ⟨hl, rfl, rfl⟩

/-- VAL.CHUNK appends at most one chunk's content to RBUF. -/
theorem execValChunk_rbuf {s t : State} (h : execValChunk s = .next t) :
    ∃ bytes, t.rbuf = s.rbuf ++ bytes ∧ bytes.length ≤ s.layout.contentCap := by
  rcases execValChunk_cases h with ⟨-, rfl⟩ | ⟨-, -, rfl⟩ | ⟨-, -, ⟨c, -, rfl⟩ | ⟨-, hlen, -, rfl⟩⟩
  · exact ⟨[], by simp⟩
  · exact ⟨[], by simp⟩
  · exact ⟨[], by simp⟩
  · exact ⟨_, rfl, frameContent_length_le hlen⟩

/-- A request other than VAL.CHUNK leaves SRC and RBUF. -/
theorem exec_src_rbuf {i : Instr} {s t : State} (hi : i.isRequest = true) (h : exec i s = .next t) :
    (t.src = s.src ∧ t.srcPos = s.srcPos ∧ t.rbuf = s.rbuf) ∨ (i = .valChunk ∧ execValChunk s = .next t) := by
  rcases exec_cases h with
    ⟨c, rfl⟩ | ⟨-, rfl⟩ | ⟨-, id, F, v, -, rfl⟩ | ⟨count0, -, rfl⟩ | hv | ⟨hwire, -⟩
  · exact .inl ⟨rfl, rfl, rfl⟩
  · exact .inl ⟨rfl, rfl, rfl⟩
  · exact .inl ⟨rfl, rfl, rfl⟩
  · exact .inl ⟨rfl, rfl, rfl⟩
  · exact .inr hv
  · rw [hi] at hwire; cases hwire

theorem exec_src {i : Instr} {s t : State} (hi : i.isRequest = true) (h : exec i s = .next t) :
    (t.src = s.src ∧ t.srcPos = s.srcPos) ∨
    (i = .valChunk ∧ 1024 ≤ s.src.length ∧ t.src = s.src.drop 1024 ∧ t.srcPos = s.srcPos + 1024) := by
  rcases exec_src_rbuf hi h with ⟨hsrc, hpos, -⟩ | ⟨hval, hv⟩
  · exact .inl ⟨hsrc, hpos⟩
  · exact (execValChunk_src hv).imp_right fun htaken => ⟨hval, htaken⟩

theorem exec_rbuf {i : Instr} {s t : State} (hi : i.isRequest = true) (h : exec i s = .next t) :
    t.rbuf = s.rbuf ∨ (i = .valChunk ∧ ∃ bytes, t.rbuf = s.rbuf ++ bytes ∧ bytes.length ≤ s.layout.contentCap) := by
  rcases exec_src_rbuf hi h with ⟨-, -, hrbuf⟩ | ⟨hval, hv⟩
  · exact .inl hrbuf
  · exact .inr ⟨hval, execValChunk_rbuf hv⟩

/-- Settles O44, one stream at a time; a stream that does not move has moved by no bytes. -/
theorem streamsMoveAsTheRulesSay : Obligations.StreamsMoveAsTheRulesSay := by
  intro i s t hi h
  refine ⟨?sink, ?src, ?rbuf⟩
  case sink =>
    rcases exec_sink h with e | ⟨hemits, F, e, hF⟩
    · exact ⟨[], by simpa using e, by simp, by simp⟩
    · exact ⟨F, e, hF, fun _ => hemits⟩
  case src =>
    rcases exec_src hi h with ⟨e, hpos⟩ | ⟨hval, hl, e, hpos⟩
    · exact ⟨[], e.symm, hpos, .inl rfl⟩
    · have htake : (s.src.take 1024).length = 1024 := List.length_take_of_le hl
      exact ⟨s.src.take 1024, by rw [e, List.take_append_drop], by rw [hpos, htake], .inr ⟨htake, hval⟩⟩
  case rbuf =>
    rcases exec_rbuf hi h with e | ⟨hval, bytes, e, hlen⟩
    · exact ⟨[], by simpa using e, by simp, by simp⟩
    · exact ⟨bytes, e, hlen, fun _ => hval⟩

/-! ## The sticky bits (R28) -/

/-- VAL.CHUNK sets the sticky bit of the code it ends with; Ok and Halted, which have no sticky bit, set none. -/
theorem execValChunk_sticky {s t : State} (h : execValChunk s = .next t) :
    ∃ c, t.completion = some c ∧
      (((c.code = .ok ∨ c.code = .halted) ∧ t.rxSticky = s.rxSticky) ∨
        t.rxSticky = stickyWith s.rxSticky c.code) := by
  rcases execValChunk_cases h with ⟨-, rfl⟩ | ⟨-, -, rfl⟩ | ⟨-, -, ⟨c, -, rfl⟩ | ⟨-, -, -, rfl⟩⟩
  · exact ⟨_, rfl, .inl ⟨.inr rfl, rfl⟩⟩
  · exact ⟨_, rfl, .inr rfl⟩
  · exact ⟨_, rfl, .inr rfl⟩
  · exact ⟨_, rfl, .inl ⟨.inl rfl, rfl⟩⟩

/-- Bit `k` of RX_STICKY after VAL.CHUNK. -/
theorem execValChunk_sticky_bit {s t : State} {k : Nat} (h : execValChunk s = .next t) (h1 : 1 ≤ k) (h4 : k ≤ 4) :
    t.rxSticky.getLsbD k = true ↔
      s.rxSticky.getLsbD k = true ∨ ∃ c, t.completion = some c ∧ c.code.toBits.toNat = k := by
  obtain ⟨c, hc, ⟨hcode, hsticky⟩ | hsticky⟩ := execValChunk_sticky h
  · have hnum : c.code.toBits.toNat = 0 ∨ c.code.toBits.toNat = 6 :=
      hcode.imp (fun e => by rw [e]; rfl) (fun e => by rw [e]; rfl)
    have hne : c.code.toBits.toNat ≠ k := by omega
    simp [hsticky, hc, hne]
  · simp [hsticky, hc, stickyWith_bit _ _ k (by omega)]

/-- Settles O46: VAL.CHUNK by `execValChunk_sticky_bit`; no other instruction but VAL.INIT writes RX_STICKY. -/
theorem stickyBitsStick : Obligations.StickyBitsStick := by
  intro i s t h hinit k h1 h4
  by_cases hval : i = .valChunk
  · subst hval
    simpa using execValChunk_sticky_bit h h1 h4
  · rcases exec_sameRx h with hsame | ⟨count0, hi⟩ | hi
    · simp [hsame.rxSticky_eq, hval]
    · exact absurd hi (hinit count0)
    · exact absurd hi hval

/-! ## The step, as the validator's registers see it -/

/-- A step leaves the RX registers, is a reset, or runs a decoded instruction. -/
theorem step_rx_cases {s t : State} (h : step s = .next t) :
    (SameRx s t ∧ t.config = s.config) ∨
    (∃ rest, s.script = .reset :: rest ∧ t = State.resetBlock { s with script := rest }) ∨
    (∃ space octets rest i, s.script = .issue space octets :: rest ∧ decode space octets = .ok i ∧
      exec i { s with script := rest } = .next t) := by
  rcases step_cases h with ⟨-, rfl⟩ | hreset | ⟨bytes, rest, -, rfl⟩ | ⟨bytes, rest, -, rfl⟩ |
    ⟨start, rest, -, rfl⟩ | ⟨n, rest, -, -, rfl⟩ | hissue
  · exact .inl (by simp [SameRx])
  · exact .inr (.inl hreset)
  · exact .inl (by simp [SameRx])
  · exact .inl (by simp [SameRx])
  · exact .inl (by simp [SameRx])
  · exact .inl (by simp [SameRx])
  · exact .inr (.inr hissue)

/-! ## Leaving the halted state (R29, R168) -/

theorem execValChunk_keeps_halt {s t : State} (hs : s.rxHalt = 1) (h : execValChunk s = .next t) : t.rxHalt = 1 := by
  rcases execValChunk_cases h with ⟨-, rfl⟩ | ⟨hrun, -⟩ | ⟨hrun, -⟩
  · exact hs
  · rw [hs] at hrun; cases hrun
  · rw [hs] at hrun; cases hrun

/-- Only a request decodes to VAL.INIT: the wire spaces hold fields of a chunk. -/
theorem space_of_decode_valInit {space : Space} {octets : List Byte} {count0 : Word}
    (h : decode space octets = .ok (.valInit count0)) : space = .request := by
  cases space with
  | request => rfl
  | header =>
    rw [decode, decodeHeader.eq_def] at h
    split at h <;> cases h
  | marker =>
    rw [decode, decodeMarker.eq_def] at h
    split at h
    · split_ifs at h <;> cases h
    · cases h

/-- Settles O48: of what a step can do, reset and VAL.INIT alone clear RX_HALT. -/
theorem onlyInitOrResetLeavesHalt : Obligations.OnlyInitOrResetLeavesHalt := by
  intro s t hs h ht
  rcases step_rx_cases h with ⟨hsame, -⟩ | ⟨rest, hscript, -⟩ | ⟨space, octets, rest, i, hscript, hdec, hex⟩
  · exact absurd (hsame.rxHalt_eq.trans hs) ht
  · exact .inl ⟨rest, hscript⟩
  · rcases exec_sameRx hex with hsame | ⟨count0, rfl⟩ | rfl
    · exact absurd (hsame.rxHalt_eq.trans hs) ht
    · obtain rfl := space_of_decode_valInit hdec
      exact .inr ⟨octets, rest, count0, hscript, hdec⟩
    · exact absurd (execValChunk_keeps_halt (s := { s with script := rest }) hs hex) ht

/-! ## The RX registers agree (R26 to R29, R105) -/

theorem State.RegsAgree.of_sameRx {s t : State} (h : s.RegsAgree) (hrx : SameRx s t) (hcfg : t.config = s.config) :
    t.RegsAgree := by
  obtain ⟨-, -, -, hlen, hstatus, hsticky, hhalt⟩ := hrx
  have hlayout : t.layout = s.layout := congrArg Config.layout hcfg
  simpa only [State.RegsAgree, hlen, hstatus, hsticky, hhalt, hlayout] using h

theorem regsAgree_of_cleared {t : State} (hsticky : t.rxSticky = 0) (hstatus : t.rxStatus = 0) (hhalt : t.rxHalt = 0)
    (hlen : t.rxLen = 0) : t.RegsAgree := by
  simp [State.RegsAgree, hsticky, hstatus, hhalt, hlen]

/-- Reporting a frame error of code 1 to 4 keeps the agreement; code 3 is the one that halts (R161, R162). -/
theorem State.RegsAgree.of_fail {s t : State} {c : ResultCode} (h : s.RegsAgree) (hrun : s.rxHalt = 0)
    (hc : 1 ≤ c.toBits.toNat ∧ c.toBits.toNat ≤ 4) (hstatus : t.rxStatus = c.toBits)
    (hsticky : t.rxSticky = stickyWith s.rxSticky c) (hhalt : t.rxHalt = 1 ↔ c.toBits.toNat = 3)
    (hlen : t.rxLen = s.rxLen) (hlayout : t.layout = s.layout) : t.RegsAgree := by
  obtain ⟨hbit0, -, -, hbit3, -, hlenOk⟩ := h
  have hold3 : s.rxSticky.getLsbD 3 = false := by simpa [hrun] using hbit3
  have hbit (k : Nat) (hk : k < 5) := stickyWith_bit s.rxSticky c k hk
  refine ⟨?_, hstatus ▸ hc.2, fun _ => ?_, ?_, fun hh => ?_, ?_⟩
  · rw [hsticky, ← Bool.not_eq_true, hbit 0 (by omega), hbit0]
    rintro (h0 | h0)
    · cases h0
    · omega
  · rw [hsticky, hstatus, hbit _ (by omega)]
    exact .inr rfl
  · rw [hhalt, hsticky, hbit 3 (by omega), hold3]
    simp
  · rw [hstatus]
    exact BitVec.eq_of_toNat_eq (hhalt.mp hh)
  · rwa [hlen, hlayout]

/-- Accepting a frame keeps the agreement: RX_STATUS is Ok, and RX_LEN has passed R164's check. -/
theorem State.RegsAgree.acceptFrame {s : State} {F : List Byte} (h : s.RegsAgree) (hrun : s.rxHalt = 0)
    (hlen : frameLenOk s.layout F = true) : (s.acceptFrame F).RegsAgree := by
  obtain ⟨hbit0, -, -, hbit3, -, -⟩ := h
  exact ⟨hbit0, by simp, by simp, hbit3, by simp [hrun], .inr (frameLen_bounds hlen)⟩

theorem execValChunk_regsAgree {s t : State} (hs : s.RegsAgree) (h : execValChunk s = .next t) : t.RegsAgree := by
  rcases execValChunk_cases h with
    ⟨-, rfl⟩ | ⟨hrun, -, rfl⟩ | ⟨hrun, -, ⟨c, hc, rfl⟩ | ⟨-, hlen, -, rfl⟩⟩
  · exact hs
  · exact hs.of_fail hrun (c := .truncatedInput) (by decide) rfl rfl (by simp [ResultCode.toBits]) rfl rfl
  · have hcode : 1 ≤ c.toBits.toNat ∧ c.toBits.toNat ≤ 4 ∧ c.toBits.toNat ≠ 3 := by
      rcases hc with rfl | rfl | rfl <;> decide
    obtain ⟨h1, h4, h3⟩ := hcode
    exact hs.of_fail hrun ⟨h1, h4⟩ rfl rfl (by simp [hrun, h3]) rfl rfl
  · exact State.RegsAgree.acceptFrame (s := s.dropSrc 1024) hs hrun hlen

theorem exec_regsAgree {i : Instr} {s t : State} (hs : s.RegsAgree) (h : exec i s = .next t) : t.RegsAgree := by
  rcases exec_sameRx h with hsame | ⟨count0, rfl⟩ | rfl
  · exact hs.of_sameRx hsame (exec_config_script h).1
  · cases h
    exact regsAgree_of_cleared rfl rfl rfl rfl
  · exact execValChunk_regsAgree hs h

/-- Settles O50: the host's own acts leave the RX registers, reset clears them, and every instruction keeps the
agreement. -/
theorem regsAgreeStep : Obligations.RegsAgreeStep := by
  intro s t hs h
  rcases step_rx_cases h with ⟨hsame, hcfg⟩ | ⟨rest, -, rfl⟩ | ⟨space, octets, rest, i, -, -, hex⟩
  · exact hs.of_sameRx hsame hcfg
  · exact regsAgree_of_cleared rfl rfl rfl rfl
  · exact exec_regsAgree (s := { s with script := rest }) hs hex

/-- Settles O51: after reset they are all 0. -/
theorem regsAgreeAtReset : Obligations.RegsAgreeAtReset := fun _ => regsAgree_of_cleared rfl rfl rfl rfl

/-! ## Reset, and the host's acts -/

/-- Settles O1: the registers `State.resetWith` writes are R39's. -/
theorem resetGivesEveryRegister : Obligations.ResetGivesEveryRegister := fun _ =>
  ⟨rfl, rfl, rfl, rfl, rfl, rfl, rfl, rfl, rfl, rfl, rfl⟩

theorem hostReadSrc_of_le {n : Nat} {s : State} (h : n ≤ s.src.length) : hostReadSrc n s = .next (s.dropSrc n) :=
  if_pos h

theorem hostReadSrc_of_lt {n : Nat} {s : State} (h : s.src.length < n) : hostReadSrc n s = .fault .hostReadPastEnd :=
  if_neg (Nat.not_le.mpr h)

theorem issueOctets_of_error {space : Space} {octets : List Byte} {e : DecodeError} (s : State)
    (h : decode space octets = .error e) : issueOctets space octets s = .refused (.undecodable e) := by
  rw [issueOctets, h]

/-- Settles O5: a step with a script is its first act (`step_cons`), and each clause is what that act does. -/
theorem stepDoesTheHostsOtherActs : Obligations.StepDoesTheHostsOtherActs := by
  intro s rest
  refine ⟨fun hs => ?idle, fun _ hs => ?sink, fun _ hs => ?src, fun _ hs => ?carry, fun n hs hn => ?read,
    fun n hs hn => ?pastEnd, fun space octets e hs hdec => ?undecodable⟩
  case idle => rw [step, hs]
  case sink => exact step_cons hs
  case src => exact step_cons hs
  case carry => exact step_cons hs
  case read => exact (step_cons hs).trans (hostReadSrc_of_le hn)
  case pastEnd => exact (step_cons hs).trans (hostReadSrc_of_lt hn)
  case undecodable => exact (step_cons hs).trans (issueOctets_of_error _ hdec)

end Sys2Proof.Machine
end

section
/-! PROOFS. The step that issues a request (spec/20_memory.md R56, R61): octets that decode run what they decode to. -/

namespace Sys2Proof.Machine

theorem issueOctets_of_ok {space : Space} {octets : List Byte} {i : Instr} (s : State)
    (h : decode space octets = .ok i) : issueOctets space octets s = exec i s := by
  rw [issueOctets, h]

/-- Settles O4: a step with a script is its first act (`step_cons`), and that act is to issue octets that decode. -/
theorem stepRunsTheDecodedInstruction : Obligations.StepRunsTheDecodedInstruction := by
  intro s space octets rest i hs hdec
  calc
    step s = issueOctets space octets { s with script := rest } := step_cons hs
    _ = exec i { s with script := rest } := issueOctets_of_ok _ hdec

end Sys2Proof.Machine
end

section
/-! PROOFS. The encodings (spec/30_encoding.md): the header's fields and their bytes, what each operand format reads,
the decoder of each encoding space, and the obligations that follow. -/

namespace Sys2Proof.Machine

/-! ## The header's fields -/

theorem packHeader_headerId_headerLen (hdr : BitVec 16) : packHeader (headerId hdr) (headerLen hdr) = hdr := by
  apply BitVec.eq_of_toNat_eq
  rw [packHeader_toNat, headerId_toNat, headerLen_toNat, mul_comm]
  exact Nat.div_add_mod hdr.toNat 1024

theorem headerId_packHeader (id : BitVec 6) (len : BitVec 10) : headerId (packHeader id len) = id := by
  apply BitVec.eq_of_toNat_eq
  rw [headerId_toNat, packHeader_toNat]
  have := len.isLt
  omega

theorem headerLen_packHeader (id : BitVec 6) (len : BitVec 10) : headerLen (packHeader id len) = len := by
  apply BitVec.eq_of_toNat_eq
  rw [headerLen_toNat, packHeader_toNat]
  have := len.isLt
  omega

/-- Settles O16: LEN fills the ten bits below ID, so `or` is addition there and masking and shifting undo it. -/
theorem headerPackUnpack : Obligations.HeaderPackUnpack := by
  refine ⟨fun id len => ?pack, fun hdr => ⟨?len, ?id⟩, packHeader_headerId_headerLen,
    fun id len => ⟨headerId_packHeader id len, headerLen_packHeader id len⟩⟩
  case pack => rw [packHeader_toNat, ← Nat.shiftLeft_add_eq_or_of_lt len.isLt, Nat.shiftLeft_eq]
  case len => rw [headerLen_toNat]; exact (Nat.and_two_pow_sub_one_eq_mod hdr.toNat 10).symm
  case id => rw [headerId_toNat, Nat.shiftRight_eq_div_pow]

/-- The high byte of the header: the top two bits of LEN below ID. -/
theorem toNat_id_append_lenHigh (id : BitVec 6) (len : BitVec 10) :
    (id ++ len.extractLsb' 8 2).toNat = id.toNat * 4 + len.toNat / 256 := by
  have := len.isLt
  rw [BitVec.toNat_append, ← Nat.shiftLeft_add_eq_or_of_lt (BitVec.isLt _), Nat.shiftLeft_eq,
    BitVec.extractLsb'_toNat, Nat.shiftRight_eq_div_pow]
  omega

/-- Settles O17: each byte is compared as a number, the header being `ID * 1024 + LEN`. -/
theorem headerBytesOnTheWire : Obligations.HeaderBytesOnTheWire := by
  intro id len
  have hlen := len.isLt
  have hlow : BitVec.ofNat 8 (id.toNat * 1024 + len.toNat) = len.extractLsb' 0 8 := by
    apply BitVec.eq_of_toNat_eq
    rw [BitVec.toNat_ofNat, BitVec.extractLsb'_toNat, Nat.shiftRight_zero]
    omega
  have hhigh : BitVec.ofNat 8 ((id.toNat * 1024 + len.toNat) / 256) = id ++ len.extractLsb' 8 2 := by
    apply BitVec.eq_of_toNat_eq
    rw [toNat_id_append_lenHigh, BitVec.toNat_ofNat]
    have := id.isLt
    omega
  rw [packHeader_toNat, le, le, le, hlow, hhigh]

/-! ## The operand formats, each by what it reads (R101) -/

theorem exceptMap_eq_ok_iff {ε α β : Type} {f : α → β} {x : Except ε α} {b : β} :
    x.map f = .ok b ↔ ∃ a, x = .ok a ∧ f a = b := by
  cases x with
  | ok a => simp [Except.map]
  | error e => simp [Except.map]

theorem readWord_writeWord_append (v : Word) (rest : List Byte) : readWord (writeWord v ++ rest) = .ok (v, rest) := by
  have hv : unle (writeWord v) = v.toNat := unle_le_of_lt v.isLt
  change Except.ok (BitVec.ofNat 32 (unle (writeWord v)), rest) = _
  rw [hv, BitVec.ofNat_toNat, BitVec.setWidth_eq]

theorem readWord_eq_ok_iff {bs rest : List Byte} {v : Word} :
    readWord bs = .ok (v, rest) ↔ bs = writeWord v ++ rest := by
  constructor
  · intro h
    rw [readWord.eq_def] at h
    split at h
    · next b0 b1 b2 b3 tail =>
      cases h
      have hlt : unle [b0, b1, b2, b3] < 2 ^ 32 := unle_lt [b0, b1, b2, b3]
      rw [writeWord, BitVec.toNat_ofNat, Nat.mod_eq_of_lt hlt]
      exact congrArg (· ++ rest) (le_unle [b0, b1, b2, b3]).symm
    · cases h
  · rintro rfl
    exact readWord_writeWord_append v rest

theorem operandsN_eq_ok_iff {bs : List Byte} : operandsN bs = .ok () ↔ bs = [] := by
  cases bs with
  | nil => simp [operandsN]
  | cons b bs => simp [operandsN]

theorem operandsB_eq_ok_iff {bs blob : List Byte} :
    operandsB bs = .ok blob ↔ bs.length < blobLimit ∧ bs = blob := by
  rw [operandsB]
  split_ifs with h
  · simp [h]
  · simp [h]

theorem operandsP_eq_ok_iff {bs : List Byte} {v : Word} : operandsP bs = .ok v ↔ bs = writeWord v := by
  have hword := readWord_eq_ok_iff (bs := bs) (v := v) (rest := [])
  rw [List.append_nil] at hword
  rw [← hword, operandsP]
  rcases readWord bs with e | ⟨w, _ | ⟨b, rest⟩⟩
  · simp
  · simp
  · simp

/-! ## The decoder of each encoding space -/

/-- What a request decodes to: a reserved code, whose operands are not looked at (R229), or else the well-formed
instruction it encodes. The cases are the operation codes in order. -/
theorem decodeRequest_ok_cases {octets : List Byte} {i : Instr} (h : decodeRequest octets = .ok i) :
    i = .reserved6 ∨ i = .reserved7 ∨ i.wellFormed = true ∧ encode i = (.request, octets) := by
  rw [decodeRequest.eq_def] at h
  split at h
  · cases h
  · next sel ops =>
    have hsel {k : Nat} (hk : sel.toNat = k) : sel = BitVec.ofNat 8 k := by
      rw [← hk, BitVec.ofNat_toNat, BitVec.setWidth_eq]
    split at h
    · next h0 => cases h; rw [hsel h0]; exact .inr (.inr ⟨rfl, rfl⟩)
    · next h1 =>
      obtain ⟨_, hops, rfl⟩ := exceptMap_eq_ok_iff.mp h
      rw [hsel h1, operandsN_eq_ok_iff.mp hops]
      exact .inr (.inr ⟨rfl, rfl⟩)
    · next h2 =>
      obtain ⟨_, hops, rfl⟩ := exceptMap_eq_ok_iff.mp h
      rw [hsel h2, readWord_eq_ok_iff.mp hops]
      exact .inr (.inr ⟨rfl, rfl⟩)
    · next h3 =>
      obtain ⟨_, hops, rfl⟩ := exceptMap_eq_ok_iff.mp h
      obtain ⟨hlen, rfl⟩ := operandsB_eq_ok_iff.mp hops
      rw [hsel h3]
      exact .inr (.inr ⟨decide_eq_true hlen, rfl⟩)
    · next h4 =>
      obtain ⟨_, hops, rfl⟩ := exceptMap_eq_ok_iff.mp h
      rw [hsel h4, operandsP_eq_ok_iff.mp hops]
      exact .inr (.inr ⟨rfl, rfl⟩)
    · next h5 =>
      obtain ⟨_, hops, rfl⟩ := exceptMap_eq_ok_iff.mp h
      rw [hsel h5, operandsN_eq_ok_iff.mp hops]
      exact .inr (.inr ⟨rfl, rfl⟩)
    · cases h; exact .inl rfl
    · cases h; exact .inr (.inl rfl)
    · cases h

theorem decodeHeader_eq_ok_iff {octets : List Byte} {i : Instr} :
    decodeHeader octets = .ok i ↔
      ∃ hdr : BitVec 16, octets = le 2 hdr.toNat ∧ i = .chunkHeader (headerId hdr) (headerLen hdr) := by
  constructor
  · intro h
    rw [decodeHeader.eq_def] at h
    split at h
    · next b0 b1 =>
      cases h
      have hlt : unle [b0, b1] < 2 ^ 16 := unle_lt [b0, b1]
      refine ⟨BitVec.ofNat 16 (unle [b0, b1]), ?_, rfl⟩
      rw [BitVec.toNat_ofNat, Nat.mod_eq_of_lt hlt]
      exact (le_unle [b0, b1]).symm
    · cases h
  · rintro ⟨hdr, rfl, rfl⟩
    have hval : BitVec.ofNat 16 (unle (le 2 hdr.toNat)) = hdr := by
      rw [unle_le_of_lt hdr.isLt, BitVec.ofNat_toNat, BitVec.setWidth_eq]
    exact congrArg (fun w => Except.ok (Instr.chunkHeader (headerId w) (headerLen w))) hval

theorem decodeMarker_eq_ok_iff {octets : List Byte} {i : Instr} :
    decodeMarker octets = .ok i ↔
      octets = [startMark] ∧ i = .chunkStart ∨ octets = [endMark] ∧ i = .chunkEnd := by
  constructor
  · intro h
    rw [decodeMarker.eq_def] at h
    split at h
    · split_ifs at h with hs he
      · cases h; exact .inl ⟨by rw [hs], rfl⟩
      · cases h; exact .inr ⟨by rw [he], rfl⟩
    · cases h
  · rintro (⟨rfl, rfl⟩ | ⟨rfl, rfl⟩) <;> rfl

/-- Settles O7: by constructor, each operand format reads back what the encoder wrote. -/
theorem decodeOfEncode : Obligations.DecodeOfEncode := by
  intro i hwf
  cases i with
  | crcSpan span => rfl
  | encInit => rfl
  | encChunk off content =>
    have hops : operandsC (writeWord off ++ content) = .ok (off, content) := readWord_writeWord_append off content
    exact congrArg (Except.map fun oc => Instr.encChunk oc.1 oc.2) hops
  | encBlob blob =>
    have hops : operandsB blob = .ok blob := operandsB_eq_ok_iff.mpr ⟨of_decide_eq_true hwf, rfl⟩
    exact congrArg (Except.map Instr.encBlob) hops
  | valInit count0 =>
    have hops : operandsP (writeWord count0) = .ok count0 := operandsP_eq_ok_iff.mpr rfl
    exact congrArg (Except.map Instr.valInit) hops
  | valChunk => rfl
  | reserved6 => rfl
  | reserved7 => rfl
  | chunkHeader id len =>
    refine decodeHeader_eq_ok_iff.mpr ⟨packHeader id len, rfl, ?_⟩
    rw [headerId_packHeader, headerLen_packHeader]
  | chunkStart => rfl
  | chunkEnd => rfl

/-- Settles O8: by space, what a decoder accepts is what the encoder of its result writes. -/
theorem decodeAcceptsOnlyEncodings : Obligations.DecodeAcceptsOnlyEncodings := by
  intro space octets i h
  cases space with
  | request =>
    rcases decodeRequest_ok_cases h with rfl | rfl | ⟨hwf, henc⟩
    · exact ⟨rfl, fun h6 _ => absurd rfl h6⟩
    · exact ⟨rfl, fun _ h7 => absurd rfl h7⟩
    · exact ⟨hwf, fun _ _ => henc⟩
  | header =>
    obtain ⟨hdr, rfl, rfl⟩ := decodeHeader_eq_ok_iff.mp h
    refine ⟨rfl, fun _ _ => ?_⟩
    rw [encode, packHeader_headerId_headerLen]
  | marker =>
    rcases decodeMarker_eq_ok_iff.mp h with ⟨rfl, rfl⟩ | ⟨rfl, rfl⟩
    · exact ⟨rfl, fun _ _ => rfl⟩
    · exact ⟨rfl, fun _ _ => rfl⟩

theorem decodeRequest_opsel_gt {sel : Byte} (ops : List Byte) (h : 7 < sel.toNat) :
    decodeRequest (sel :: ops) = .error .opselTooWide := by
  rw [decodeRequest.eq_def]
  dsimp only
  split
  case h_9 => rfl
  all_goals omega

/-- Settles O6: written-out words by evaluation, the two reserved codes with any octets after them, and the codes
above 7. -/
theorem operationCodesDecode : Obligations.OperationCodesDecode := by
  exact ⟨by decide, by decide, by decide, by decide, by decide, by decide, fun _ => ⟨rfl, rfl⟩,
    fun _ ops hsel => decodeRequest_opsel_gt ops hsel, by decide, by decide, by decide⟩

/-! ## What the reserved codes and the wire fields do -/

/-- Settles O40: a reserved code raises BadOp, which writes the completion alone. -/
theorem reservedCodesAnswerBadOp : Obligations.ReservedCodesAnswerBadOp := ⟨rfl, fun _ => ⟨rfl, rfl⟩⟩

/-- Settles O41: each row supplies its field's bytes to SRC, the header's being those of O17. -/
theorem wireFieldsGoToSrc : Obligations.WireFieldsGoToSrc := by
  intro id len s
  refine ⟨?_, rfl, rfl⟩
  rw [← headerBytesOnTheWire id len]
  rfl

end Sys2Proof.Machine
end

section
/-! PROOFS. The checksum (spec/41_crc.md R125 to R131): CRC.SPAN's answer, the algebra of `crc32z`, its table form, and
which changes of a span it detects. -/

namespace Sys2Proof.Machine

/-! ## CRC.SPAN, pieces, zeros at the front, linearity -/

/-- Settles O9: the completion `execCrcSpan` writes. -/
theorem crcSpanReturnsChecksum : Obligations.CrcSpanReturnsChecksum := fun _ _ => rfl

/-- Settles O12: a fold over an append. -/
theorem crcContinues : Obligations.CrcContinues := fun A B => crcFrom_append crcInit A B

/-- Settles O10: zero bytes keep the accumulator, which starts at 0. -/
theorem crcIgnoresLeadingZeros : Obligations.CrcIgnoresLeadingZeros := by
  refine ⟨rfl, crcByte_zero_zero, fun k S => ⟨?_, crcFrom_zeros k⟩⟩
  calc
    crc32z (zeros k ++ S) = crcFrom (crcFrom 0 (zeros k)) S := crcFrom_append 0 (zeros k) S
    _ = crc32z S := by rw [crcFrom_zeros]; rfl

/-- Settles O11: linearity from the two accumulators 0, whose sum is 0. -/
theorem crcIsLinear : Obligations.CrcIsLinear := by
  intro A B hlen
  have hlin := crcFrom_xor 0 0 hlen
  rwa [word_zero_xor] at hlin

/-! ## The table form (R130) -/

theorem crcTable_eq (b : Byte) : crcTable b = crcBits 8 (b.setWidth 32) := by
  rw [crcTable, crcByte, word_zero_xor]

/-- Eight bit steps look up the low byte and shift the rest down. -/
theorem crcBits_eight (x : Word) : crcBits 8 x = crcTable (x.setWidth 8) ^^^ (x >>> 8) := by
  have hhigh : crcBits 8 ((x >>> 8) <<< 8) = x >>> 8 := by
    rw [crcBits_shift]
    · apply BitVec.eq_of_getLsbD_eq
      intro i hi
      simp only [BitVec.getLsbD_ushiftRight, BitVec.getLsbD_shiftLeft]
      by_cases h : 8 + i < 32
      · simp [h]
      · simp [h, BitVec.getLsbD_of_ge x (8 + i) (by omega)]
    · rw [BitVec.toNat_shiftLeft, Nat.shiftLeft_eq]
      omega
  calc
    crcBits 8 x = crcBits 8 ((x.setWidth 8).setWidth 32 ^^^ ((x >>> 8) <<< 8)) := by rw [← word_split]
    _ = crcTable (x.setWidth 8) ^^^ (x >>> 8) := by rw [crcBits_xor, hhigh, crcTable_eq]

theorem setWidth_byte_ushiftRight (b : Byte) : b.setWidth 32 >>> 8 = 0 := by
  apply BitVec.eq_of_toNat_eq
  have := b.isLt
  simp only [BitVec.toNat_ushiftRight, BitVec.toNat_setWidth, Nat.shiftRight_eq_div_pow]
  change _ = 0
  omega

/-- Settles O13: the entering byte reaches the low byte of the accumulator alone. -/
theorem crcTableFormAgrees : Obligations.CrcTableFormAgrees := by
  refine ⟨fun a b => ?_, fun _ => rfl, by decide, by decide, by decide, by decide⟩
  rw [crcByte, crcBits_eight, BitVec.ushiftRight_xor_distrib, setWidth_byte_ushiftRight, word_xor_zero]

/-! ## Bursts (R131) -/

/-- `crcBits_shift` for a number with its zero low bits written out. -/
theorem crcBits_two_pow_mul {n k : Nat} (h : 2 ^ n * k < 2 ^ 32) :
    crcBits n (BitVec.ofNat 32 (2 ^ n * k)) = BitVec.ofNat 32 k := by
  have hval : (BitVec.ofNat 32 (2 ^ n * k)).toNat = 2 ^ n * k := Nat.mod_eq_of_lt h
  have hk : k < 2 ^ 32 := lt_of_le_of_lt (Nat.le_mul_of_pos_left k (by positivity)) h
  rw [crcBits_shift n _ (by rw [hval, Nat.mul_mod_right])]
  apply BitVec.eq_of_toNat_eq
  rw [BitVec.toNat_ushiftRight, hval, Nat.shiftRight_eq_div_pow, Nat.mul_div_cancel_left k (by positivity),
    BitVec.toNat_ofNat, Nat.mod_eq_of_lt hk]

/-- A number that starts `j` bits up in the first byte, cut into its bits in that byte and those in the bytes after. -/
theorem unle_cons_split {b : Byte} {S : List Byte} {m j : Nat} (hj : j ≤ 8) (h : unle (b :: S) = m * 2 ^ j) :
    ∃ lo < 2 ^ (8 - j), b.toNat = 2 ^ j * lo ∧ m = lo + 2 ^ (8 - j) * unle S := by
  have hpow : 2 ^ j * 2 ^ (8 - j) = 256 := by rw [← pow_add, Nat.add_sub_of_le hj]; rfl
  have hsplit : b.toNat + 2 ^ j * (2 ^ (8 - j) * unle S) = 2 ^ j * m := by
    rw [← mul_assoc, hpow, ← unle_cons, h, mul_comm]
  obtain ⟨lo, hlo⟩ : 2 ^ j ∣ b.toNat :=
    (Nat.dvd_add_left (Nat.dvd_mul_right ..)).mp (hsplit ▸ Nat.dvd_mul_right ..)
  refine ⟨lo, ?_, hlo, ?_⟩
  · have hb : 2 ^ j * lo < 2 ^ j * 2 ^ (8 - j) := by rw [← hlo, hpow]; exact b.isLt
    exact Nat.lt_of_mul_lt_mul_left hb
  · rw [hlo, ← Nat.mul_add] at hsplit
    exact (Nat.eq_of_mul_eq_mul_left (by positivity) hsplit).symm

/-- The zero low bits of a byte take no part in its byte step. -/
theorem crcByte_zero_of_toNat {b : Byte} {lo j : Nat} (hj : j ≤ 8) (hlo : b.toNat = 2 ^ j * lo) :
    crcByte 0 b = crcBits (8 - j) (BitVec.ofNat 32 lo) := by
  have hlt : 2 ^ j * lo < 2 ^ 32 := by rw [← hlo]; exact b.isLt.trans (by norm_num)
  have hword : b.setWidth 32 = BitVec.ofNat 32 (2 ^ j * lo) := by rw [← hlo, BitVec.ofNat_toNat]
  calc
    crcByte 0 b = crcBits (j + (8 - j)) (b.setWidth 32) := by rw [Nat.add_sub_of_le hj]; exact crcTable_eq b
    _ = crcBits (8 - j) (BitVec.ofNat 32 lo) := by rw [hword, crcBits_add, crcBits_two_pow_mul hlt]

/-- A 32-bit number that starts in the first byte, `j` bits up: the span acts like that number. -/
theorem crcFrom_cons_burst {b : Byte} {S : List Byte} {m j : Nat} (hj : j ≤ 8) (hm : m < 2 ^ 32)
    (h : unle (b :: S) = m * 2 ^ j) :
    crcFrom 0 (b :: S) = crcBits (8 * S.length) (crcBits (8 - j) (BitVec.ofNat 32 m)) := by
  obtain ⟨lo, hlt, hlo, rfl⟩ := unle_cons_split hj h
  have hS : unle S < 2 ^ 32 := by
    have := Nat.le_mul_of_pos_left (unle S) (Nat.two_pow_pos (8 - j))
    omega
  have hword : crcBits (8 - j) (BitVec.ofNat 32 (lo + 2 ^ (8 - j) * unle S)) =
      crcByte 0 b ^^^ BitVec.ofNat 32 (unle S) := by
    rw [word_add_eq_xor hlt hm, crcBits_xor, crcBits_two_pow_mul (by omega), crcByte_zero_of_toNat hj hlo]
  rw [hword, crcBits_xor, ← crcFrom_packed S hS, BitVec.xor_comm, ← crcFrom_zero_xor, crcFrom_cons]

/-- A change within 32 consecutive bits acts like the 32-bit number it is, wherever in the span it starts. -/
theorem crcFrom_burst {E : List Byte} {m j : Nat} (hm : m < 2 ^ 32) (h : unle E = m * 2 ^ j) :
    ∃ n, crcFrom 0 E = crcBits n (BitVec.ofNat 32 m) := by
  induction E generalizing j with
  | nil =>
    have hm0 : m = 0 := by simpa using h.symm
    exact ⟨0, by rw [hm0]; rfl⟩
  | cons b S ih =>
    by_cases hj : j < 8
    · exact ⟨8 - j + 8 * S.length, by rw [crcFrom_cons_burst (Nat.le_of_lt hj) hm h, crcBits_add]⟩
    · obtain ⟨i, rfl⟩ := Nat.exists_eq_add_of_le (Nat.le_of_not_lt hj)
      have hb := b.isLt
      have hsplit : b.toNat + 256 * unle S = 256 * (m * 2 ^ i) := by
        rw [← unle_cons, h, pow_add]; ring
      have hb0 : b = 0 := BitVec.eq_of_toNat_eq (by change b.toNat = 0; omega)
      obtain ⟨n, hn⟩ := ih (j := i) (by omega)
      exact ⟨n, by rw [hb0, crcFrom_cons, crcByte_zero_zero, hn]⟩

/-- Settles O14: the change adds bit steps of a nonzero word, and a bit step makes no nonzero word zero. -/
theorem crcDetectsBursts : Obligations.CrcDetectsBursts := by
  intro A B E C m j hlen hpos hm hE heq
  obtain ⟨n, hn⟩ := crcFrom_burst hm hE
  rw [crc_change A B E C hlen, hn, xor_left_eq_self_iff] at heq
  have hzero : BitVec.ofNat 32 m = 0 := crcBits_eq_zero (crcBits_eq_zero heq)
  have hval := congrArg BitVec.toNat hzero
  rw [BitVec.toNat_ofNat, Nat.mod_eq_of_lt hm] at hval
  exact absurd hval hpos.ne'

/-! ## Independence of the low halves of words -/

/-- The low 16 bits of a word, as a number (R131). -/
def lowHalf (a : Word) : Nat := a.toNat % 2 ^ 16

theorem lowHalf_xor (a b : Word) : lowHalf (a ^^^ b) = lowHalf a ^^^ lowHalf b := by
  rw [lowHalf, BitVec.toNat_xor, Nat.xor_mod_two_pow]; rfl

/-- The XOR of a list of words. -/
def xorSum (S : List Word) : Word := S.foldr (· ^^^ ·) 0

theorem xorSum_cons (v : Word) (S : List Word) : xorSum (v :: S) = v ^^^ xorSum S := rfl

theorem crcBits_xorSum (n : Nat) (S : List Word) : crcBits n (xorSum S) = xorSum (S.map (crcBits n)) := by
  induction S with
  | nil => exact crcBits_zero n
  | cons v S ih => rw [xorSum_cons, crcBits_xor, ih, List.map_cons, xorSum_cons]

/-- One step of Gaussian elimination: `w` with the top bit of `v` cleared by adding `v` where it stands. -/
def eliminate (v w : Nat) : Nat := if w.testBit v.log2 then w ^^^ v else w

theorem eliminate_self {v : Nat} (h : v ≠ 0) : eliminate v v = 0 := by
  rw [eliminate, if_pos (Nat.testBit_log2 h), Nat.xor_self]

theorem eliminate_xor {v : Nat} (w w' : Nat) :
    eliminate v (w ^^^ w') = eliminate v w ^^^ eliminate v w' := by
  unfold eliminate
  rw [Nat.testBit_xor]
  rcases w.testBit v.log2 <;> rcases w'.testBit v.log2 <;>
    simp [Nat.xor_left_comm, Nat.xor_comm]

/-- Whether the images of the words under `f` are linearly independent over the two-element field, by Gaussian
elimination. -/
def independentUnder (f : Word → Nat) : List Word → Bool
  | [] => true
  | v :: vs => f v != 0 && independentUnder (fun w => eliminate (f v) (f w)) vs

/-- What `independentUnder` computes: no words of the list but none at all have a XOR that a linear `f` takes to 0. -/
theorem eq_nil_of_independentUnder {f : Word → Nat} (hf : ∀ a b, f (a ^^^ b) = f a ^^^ f b) {vs S : List Word}
    (hind : independentUnder f vs = true) (hS : S.Sublist vs) (hsum : f (xorSum S) = 0) : S = [] := by
  induction vs generalizing f S with
  | nil => exact List.sublist_nil.mp hS
  | cons v vs ih =>
    rw [independentUnder, Bool.and_eq_true, bne_iff_ne] at hind
    obtain ⟨hv, hrest⟩ := hind
    have hlin (a b : Word) : eliminate (f v) (f (a ^^^ b)) = eliminate (f v) (f a) ^^^ eliminate (f v) (f b) := by
      rw [hf, eliminate_xor]
    have hzero : eliminate (f v) (f (xorSum S)) = 0 := by rw [hsum]; simp [eliminate]
    rcases List.sublist_cons_iff.mp hS with hskip | ⟨S', rfl, htake⟩
    · exact ih hlin hrest hskip hzero
    · rw [xorSum_cons, hlin, eliminate_self hv, Nat.zero_xor] at hzero
      obtain rfl : S' = [] := ih hlin hrest htake hzero
      rw [xorSum_cons, xorSum, List.foldr_nil, word_xor_zero] at hsum
      exact absurd hsum hv

/-! ## The bits of one byte, stepped along (R131) -/

/-- A word and the `n - 1` bit steps after it. From `0x80` these are the bits of a byte, the top bit first. -/
def bitWords (n : Nat) (a : Word) : List Word := List.iterate crcBit a n

theorem crcBits_eq_iterate (n : Nat) : crcBits n = crcBit^[n] := by
  funext a
  induction n generalizing a with
  | zero => rfl
  | succ n ih => exact ih (crcBit a)

theorem map_crcBits_bitWords (m n : Nat) (a : Word) : (bitWords n a).map (crcBits m) = bitWords n (crcBits m a) := by
  induction n generalizing a with
  | zero => rfl
  | succ n ih =>
    have hcomm : crcBits m (crcBit a) = crcBit (crcBits m a) := by
      rw [crcBits_eq_iterate, Function.Commute.iterate_self crcBit m a]
    change crcBits m a :: (bitWords n (crcBit a)).map (crcBits m) = crcBits m a :: bitWords n (crcBit (crcBits m a))
    rw [ih, hcomm]

/-- The first `n` words of `bitWords` that are set bits of the byte. -/
def setBits (n : Nat) (d : Byte) : List Word := (bitWords n 0x80).filter fun w => w &&& d.setWidth 32 ≠ 0

theorem xorSum_setBits_eight : ∀ d : Byte, xorSum (setBits 8 d) = d.setWidth 32 := by decide +kernel

theorem xorSum_setBits_seven : ∀ d : Byte, d.getLsbD 0 = false → xorSum (setBits 7 d) = d.setWidth 32 := by
  decide +kernel

/-- A byte that is the XOR of its first `n` bits does not vanish from the low half where those bits, stepped along, are
independent. -/
theorem eq_zero_of_lowHalf_crcBits {m n : Nat} {d : Byte}
    (hind : independentUnder lowHalf (bitWords n (crcBits m 0x80)) = true)
    (hd : xorSum (setBits n d) = d.setWidth 32) (hlow : lowHalf (crcBits m (d.setWidth 32)) = 0) : d = 0 := by
  rw [← hd, crcBits_xorSum] at hlow
  have hsub : ((setBits n d).map (crcBits m)).Sublist (bitWords n (crcBits m 0x80)) := by
    rw [← map_crcBits_bitWords]
    exact List.filter_sublist.map _
  have hnil := List.map_eq_nil_iff.mp (eq_nil_of_independentUnder lowHalf_xor hind hsub hlow)
  rw [hnil] at hd
  have hval := congrArg BitVec.toNat hd
  apply BitVec.eq_of_toNat_eq
  have := d.isLt
  rw [BitVec.toNat_setWidth, Nat.mod_eq_of_lt (by omega)] at hval
  exact hval.symm

/-! ## The walk over the reach of a chunk (R131) -/

/-- The walk: at each of 1018 byte steps the low halves of the eight bits of a byte are independent, and at the step of
the one exception those of the upper seven are. -/
theorem walk_independent : ((List.iterate (crcBits 8) (crcBits 8 0x80) 1018).zipIdx.all fun (a, n) =>
    independentUnder lowHalf (bitWords (if n = 499 then 7 else 8) a)) = true := by
  decide +kernel

/-- The one change that the low half misses is first missed after 499 bytes. -/
theorem findIdx_lowHalf_0xF1 :
    ((List.iterate (crcBits 8) (crcBits 8 ((0xF1 : Byte).setWidth 32)) 500).findIdx fun a => lowHalf a = 0) = 499 := by
  decide +kernel

theorem iterate_crcBits_eight (n : Nat) (a : Word) : (crcBits 8)^[n] (crcBits 8 a) = crcBits (8 * n + 8) a := by
  rw [Nat.add_comm, crcBits_add, crcBits_eq_iterate, crcBits_eq_iterate, Function.iterate_mul]

theorem independent_bitWords {n : Nat} (h : n < 1018) :
    independentUnder lowHalf (bitWords (if n = 499 then 7 else 8) (crcBits (8 * n + 8) 0x80)) = true := by
  rw [← iterate_crcBits_eight]
  refine List.all_eq_true.mp walk_independent ((crcBits 8)^[n] (crcBits 8 0x80), n) ?_
  rw [List.mem_zipIdx_iff_getElem?]
  exact List.getElem?_iterate _ _ _ _ h

theorem lowHalf_0xF1_after_499 : lowHalf (crcBits (8 * 499 + 8) ((0xF1 : Byte).setWidth 32)) = 0 := by
  have hlt : 499 < 500 := by norm_num
  rw [← findIdx_lowHalf_0xF1] at hlt
  have hfound := List.findIdx_getElem (w := hlt.trans_eq (List.length_iterate ..).symm)
  simpa only [findIdx_lowHalf_0xF1, List.getElem_iterate, iterate_crcBits_eight, decide_eq_true_eq] using hfound

/-- What a change of one byte does to the low half is nothing only for the one exception. -/
theorem lowHalf_crcBits_byte_eq_zero_iff {n : Nat} {d : Byte} (hd : d ≠ 0) (hn : n < 1018) :
    lowHalf (crcBits (8 * n + 8) (d.setWidth 32)) = 0 ↔ d = 0xF1 ∧ n = 499 := by
  have hind := independent_bitWords hn
  constructor
  · intro hlow
    by_cases h499 : n = 499
    · subst h499
      rw [if_pos rfl] at hind
      cases hbit : d.getLsbD 0 with
      | false => exact absurd (eq_zero_of_lowHalf_crcBits hind (xorSum_setBits_seven d hbit) hlow) hd
      | true =>
        have hbit' : (d ^^^ 0xF1).getLsbD 0 = false := by rw [BitVec.getLsbD_xor, hbit]; rfl
        have hlow' : lowHalf (crcBits (8 * 499 + 8) ((d ^^^ 0xF1).setWidth 32)) = 0 := by
          rw [BitVec.setWidth_xor, crcBits_xor, lowHalf_xor, hlow, Nat.zero_xor]
          exact lowHalf_0xF1_after_499
        have hsame := eq_zero_of_lowHalf_crcBits hind (xorSum_setBits_seven _ hbit') hlow'
        exact ⟨BitVec.xor_eq_zero_iff.mp hsame, rfl⟩
    · rw [if_neg h499] at hind
      exact absurd (eq_zero_of_lowHalf_crcBits hind (xorSum_setBits_eight d) hlow) hd
  · rintro ⟨rfl, rfl⟩
    exact lowHalf_0xF1_after_499

/-- `crc_change` for one byte. -/
theorem crc_change_byte (A C : List Byte) (b d : Byte) :
    crc32z (A ++ (b ^^^ d) :: C) =
      crc32z (A ++ b :: C) ^^^ crcBits (8 * C.length + 8) (d.setWidth 32) := by
  have hchange := crc_change A [b] [d] C rfl
  have hstep : crcBits (8 * C.length) (crcFrom 0 [d]) = crcBits (8 * C.length + 8) (d.setWidth 32) := by
    rw [Nat.add_comm, crcBits_add, ← crcTable_eq]; rfl
  rw [hstep] at hchange
  simpa using hchange

/-- Settles O15: the low half changes by that of the byte's change, stepped along. -/
theorem crcLowHalfMissesOnePattern : Obligations.CrcLowHalfMissesOnePattern := by
  intro A C b d hd hlen
  rw [crc_change_byte]
  change lowHalf _ = lowHalf _ ↔ _
  rw [lowHalf_xor, xor_left_eq_self_iff]
  exact lowHalf_crcBits_byte_eq_zero_iff hd (by omega)

end Sys2Proof.Machine
end

section
/-! PROOFS. The encoder (spec/42_encoder.md R140 to R152): the chunk that ENC.CHUNK appends and what its bytes are, how
a blob is cut into contents, ENC.BLOB in closed form and as a run of ENC.CHUNK requests. -/

namespace Sys2Proof.Machine

/-! ## ENC.INIT and ENC.CHUNK -/

/-- Settles O18: the update `execEncInit` writes. -/
theorem encInitLoadsMessageId : Obligations.EncInitLoadsMessageId := fun _ => rfl

/-- ENC.CHUNK's body in terms of the chunk of R80. -/
theorem emitChunk_eq {off : Word} {content : List Byte} {s : State} (hcap : content.length ≤ s.layout.contentCap) :
    s.emitChunk off content =
      { s with txId := s.txId + 1, sink := s.sink ++ chunkBytes s.layout s.txId off content } := by
  rw [State.emitChunk, layout_eq, buildFrame_eq _ _ _ _ hcap]
  rfl

theorem execEncChunk_inRange {off : Word} {content : List Byte} {s : State} (hpos : 1 ≤ content.length)
    (hcap : content.length ≤ s.layout.contentCap) :
    execEncChunk off content s = .next ((s.emitChunk off content).succeed .none) := by
  rcases execEncChunk_cases off content s with ⟨hout, -⟩ | ⟨-, -, h⟩
  · omega
  · exact h

theorem execEncChunk_outOfRange {off : Word} {content : List Byte} {s : State}
    (hout : content.length = 0 ∨ s.layout.contentCap < content.length) :
    execEncChunk off content s = .next (s.raise .badRequest) := by
  rcases execEncChunk_cases off content s with ⟨-, h⟩ | ⟨hpos, hcap, -⟩
  · exact h
  · omega

/-- Settles O19: in range the body runs, and the frame it builds is the chunk of R80. -/
theorem encChunkAppendsOneChunk : Obligations.EncChunkAppendsOneChunk := by
  intro off content s hpos hcap
  calc
    exec (.encChunk off content) s = .next ((s.emitChunk off content).succeed .none) := execEncChunk_inRange hpos hcap
    _ = _ := by rw [emitChunk_eq hcap]; rfl

/-- Settles O20: the two branches of ENC.CHUNK's range check. -/
theorem encChunkRefusesLength : Obligations.EncChunkRefusesLength :=
  ⟨rfl, fun _ _ _ => ⟨execEncChunk_outOfRange, fun hpos hcap => ⟨_, execEncChunk_inRange hpos hcap, rfl⟩⟩⟩

/-! ## The bytes of an emitted chunk (R152) -/

/-- R143: past the content, up to the checksum, a chunk holds zero. -/
theorem chunkBytes_padding {p : Profile} {id : BitVec 6} {off : Word} {content : List Byte} {i : Nat}
    (hlo : 3 + (content.length + 4) ≤ i) (hhi : i < p.layout.ckOff) :
    byteAt (chunkBytes p.layout id off content) i = 0 := by
  have hck := ckOff_eq p
  rw [chunkBytes, List.append_assoc, byteAt_append_left, byteAt_append_right, byteAt_zeros]
  · simp; omega
  · simp; omega

theorem chunkBytes_lenField {p : Profile} {id : BitVec 6} {off : Word} {content : List Byte}
    (hcap : content.length ≤ p.layout.contentCap) :
    memRead (chunkBytes p.layout id off content) 1 2 % 1024 = content.length + 4 := by
  have hadd := contentCap_add p
  have hdata := dataCap_le p
  rw [chunkBytes_header _ _ _ _ hcap]
  omega

/-- Settles O21: each bound is what the chunk of O19 holds in one of its fields. -/
theorem emittedChunkBounds : Obligations.EmittedChunkBounds := by
  intro off content s hpos hcap
  have hadd := contentCap_add s.config.profile
  refine ⟨_, chunkBytes s.layout s.txId off content, encChunkAppendsOneChunk off content s hpos hcap, rfl, ?_⟩
  rw [layout_eq] at hcap ⊢
  rw [chunkBytes_lenField hcap]
  refine ⟨chunkBytes_length _ _ _ _ hcap, by omega, by omega, chunkBytes_first .., chunkBytes_last _ _ _ _ hcap,
    chunkBytes_offset .., chunkBytes_content .., ?checksum, fun i => chunkBytes_padding⟩
  case checksum => rw [chunkBytes_checksum _ _ _ _ hcap, chunkBytes_span]

/-! ## How a blob is cut into contents (R147) -/

theorem chunkContent_length (L : Layout) (blob : List Byte) (k : Nat) :
    (chunkContent L blob k).length = min L.contentCap (blob.length - k * L.contentCap) := slice_length ..

theorem flatten_chunkContent (L : Layout) (blob : List Byte) (n : Nat) :
    ((List.range n).map (chunkContent L blob)).flatten = blob.take (n * L.contentCap) := by
  induction n with
  | zero => simp
  | succ n ih =>
    calc
      _ = blob.take (n * L.contentCap) ++ chunkContent L blob n := by simp [List.range_succ, ih]
      _ = blob.take ((n + 1) * L.contentCap) := by
        rw [Nat.succ_mul, ← slice_zero_left, ← slice_zero_left, slice_add, Nat.zero_add, chunkContent]

/-- Settles O23: the first `n` contents are the front of the blob (`flatten_chunkContent`), and chunk `k` begins
inside the blob exactly when it is one of its chunks (`lt_chunkCount_iff`). -/
theorem blobChunksPartitionTheBlob : Obligations.BlobChunksPartitionTheBlob := by
  intro p blob
  have hlt := fun k => lt_chunkCount_iff p k blob.length
  refine ⟨?contents, fun k hk => ?full, fun k hk => ⟨?rest, chunkContent_length_bounds (by omega)⟩, ?empty⟩
  case contents =>
    rw [flatten_chunkContent, List.take_of_length_le]
    exact Nat.not_lt.mp ((hlt _).not.mp (lt_irrefl _))
  case full =>
    have hnext := (hlt (k + 1)).mp hk
    rw [Nat.succ_mul] at hnext
    rw [chunkContent_length]
    omega
  case rest =>
    have hend := (hlt (k + 1)).not.mp (by omega)
    rw [Nat.succ_mul] at hend
    rw [chunkContent_length]
    omega
  case empty =>
    have hfirst := hlt 0
    rw [← List.length_eq_zero_iff]
    omega

/-! ## ENC.BLOB (R146, R147, R149) -/

/-- Settles O22: the closed form of ENC.BLOB, with its chunks counted from 0. -/
theorem encBlobEmitsItsChunks : Obligations.EncBlobEmitsItsChunks := by
  intro blob s hsize
  rw [List.range_eq_range']
  exact execEncBlob_eq s hsize

theorem step_issueInstr {i : Instr} (s : State) (rest : List HostEvent) (hwf : i.wellFormed = true) :
    step { s with script := issueInstr i :: rest } = exec i { s with script := rest } :=
  stepRunsTheDecodedInstruction _ _ _ rest i rfl (decodeOfEncode i hwf)

/-- The request for chunk `k` of a blob. -/
def chunkRequest (L : Layout) (blob : List Byte) (k : Nat) : HostEvent :=
  issueInstr (.encChunk (BitVec.ofNat 32 (k * L.contentCap)) (chunkContent L blob k))

/-- One request for a chunk of a blob, `id` being TX_ID at the blob's first chunk. -/
theorem step_chunkRequest {p : Profile} {blob : List Byte} {id : BitVec 6} {k : Nat} {s : State}
    (rest : List HostEvent) (hp : s.config.profile = p) (hid : s.txId = id + BitVec.ofNat 6 k)
    (hk : k < chunkCount p.layout blob.length) :
    step { s with script := chunkRequest p.layout blob k :: rest } =
      .next { s with
        txId := id + BitVec.ofNat 6 (k + 1)
        sink := s.sink ++ chunkOfBlob p.layout id blob k
        script := rest
        completion := some { code := .ok, value := .none } } := by
  obtain ⟨hpos, hcap⟩ := chunkContent_length_bounds hk
  have hlayout : s.layout = p.layout := by rw [layout_eq, hp]
  calc
    step { s with script := chunkRequest p.layout blob k :: rest } =
        exec (.encChunk _ (chunkContent p.layout blob k)) { s with script := rest } := step_issueInstr s rest rfl
    _ = _ := execEncChunk_inRange hpos (hlayout ▸ hcap)
    _ = _ := by rw [emitChunk_blob blob (s := { s with script := rest }) hp hid]; rfl

/-- The requests for `m` chunks of a blob, from chunk `k`, append these chunks; the completion is the last one's. -/
theorem runSteps_chunkRequests {p : Profile} {blob : List Byte} {id : BitVec 6} (m k : Nat) (s : State)
    (hp : s.config.profile = p) (hid : s.txId = id + BitVec.ofNat 6 k)
    (hm : k + m ≤ chunkCount p.layout blob.length) :
    ∃ c, runSteps m { s with script := (List.range' k m).map (chunkRequest p.layout blob) } =
      .next { s with
        txId := id + BitVec.ofNat 6 (k + m)
        sink := s.sink ++ chunksFrom p.layout id blob k m
        script := []
        completion := c } := by
  induction m generalizing k s with
  | zero =>
    refine ⟨s.completion, ?_⟩
    rw [Nat.add_zero, ← hid, chunksFrom_zero, List.append_nil]
    rfl
  | succ m ih =>
    have hk : k < chunkCount p.layout blob.length := by omega
    rw [List.range'_succ, List.map_cons, runSteps_succ m (step_chunkRequest _ hp hid hk), chunksFrom_succ,
      ← List.append_assoc, ← show k + 1 + m = k + (m + 1) by omega]
    exact ih (k + 1) { s with
      txId := id + BitVec.ofNat 6 (k + 1)
      sink := s.sink ++ chunkOfBlob p.layout id blob k
      completion := some { code := .ok, value := .none } } hp rfl (by omega)

/-- Settles O24: the run of the chunks' requests (`runSteps_chunkRequests`, from chunk 0) against ENC.BLOB's closed
form. -/
theorem encBlobIsEncChunksInOrder : Obligations.EncBlobIsEncChunksInOrder := by
  intro blob s hsize
  obtain ⟨c, hrun⟩ := runSteps_chunkRequests (blob := blob) (chunkCount s.layout blob.length) 0 s rfl
    (BitVec.add_zero _).symm (Nat.zero_add _).le
  rw [Nat.zero_add, ← List.range_eq_range'] at hrun
  refine ⟨_, _, hrun, ?blobStep, rfl⟩
  case blobStep =>
    have hwf : (Instr.encBlob blob).wellFormed = true := decide_eq_true hsize
    calc
      step { s with script := [issueInstr (.encBlob blob)] } = exec (.encBlob blob) { s with script := [] } :=
        step_issueInstr s [] hwf
      _ = _ := execEncBlob_eq _ hsize

end Sys2Proof.Machine
end

section
/-! PROOFS. The validator (spec/43_validator.md R160 to R174): the five answers of VAL.CHUNK, the round trip with the
encoder, and which changes of an accepted frame are noticed. -/

namespace Sys2Proof.Machine

/-! ## VAL.INIT, and VAL.CHUNK without a frame -/

/-- Settles O25: the update `execValInit` writes. -/
theorem valInitPresetsRx : Obligations.ValInitPresetsRx := fun _ _ => rfl

/-- Settles O26: the first branch of VAL.CHUNK. -/
theorem valChunkHaltedChangesNothing : Obligations.ValChunkHaltedChangesNothing := fun _ hh => if_pos hh

/-- Settles O27: the second branch of VAL.CHUNK. -/
theorem valChunkTruncatedHalts : Obligations.ValChunkTruncatedHalts := by
  intro s hh hl
  have havail : s.availSrc < s.layout.chunkSize := by rwa [chunkSize_eq]
  calc
    exec .valChunk s = .next (s.halt.failRaise .truncatedInput) := by
      rw [exec, execValChunk, if_neg (by simp [hh]), if_pos havail]
    _ = _ := rfl

/-! ## What VAL.CHUNK reads of a frame: the same bytes, the same fields -/

/-- LEN is in byte 1 and the low two bits of byte 2 (R82). -/
theorem frameLen_toNat_eq_bytes (p : Profile) (F : List Byte) :
    (frameLen p.layout F).toNat = (byteAt F 1).toNat + 256 * ((byteAt F 2).extractLsb' 0 2).toNat := by
  have hlow := (byteAt F 1).isLt
  have hhdr : memRead F 1 2 = (byteAt F 1).toNat + 256 * (byteAt F 2).toNat := memRead_two F 1
  rw [frameLen_toNat, hhdr, BitVec.extractLsb'_toNat, Nat.shiftRight_zero]
  omega

section
variable {p : Profile} {F G : List Byte}

theorem frameMarkersOk_congr (hfirst : byteAt G 0 = byteAt F 0) (hlast : byteAt G 1023 = byteAt F 1023) :
    frameMarkersOk p.layout G = frameMarkersOk p.layout F := by
  rw [Bool.eq_iff_iff, frameMarkersOk_iff, frameMarkersOk_iff, hfirst, hlast]

theorem frameLen_congr (hone : byteAt G 1 = byteAt F 1)
    (htwo : (byteAt G 2).extractLsb' 0 2 = (byteAt F 2).extractLsb' 0 2) :
    frameLen p.layout G = frameLen p.layout F := by
  apply BitVec.eq_of_toNat_eq
  rw [frameLen_toNat_eq_bytes, frameLen_toNat_eq_bytes, hone, htwo]

theorem frameSpan_congr (hl : G.length = F.length) (hlen : frameLen p.layout G = frameLen p.layout F)
    (hbytes : ∀ i, 3 ≤ i → i < 3 + (frameLen p.layout F).toNat → byteAt G i = byteAt F i) :
    frameSpan p.layout G = frameSpan p.layout F := by
  rw [frameSpan, hlen, dataOff_eq, slice_congr hl hbytes, frameSpan, dataOff_eq]

theorem frameChecksum_congr (hl : G.length = F.length)
    (hbytes : ∀ i, p.layout.ckOff ≤ i → i < 1023 → byteAt G i = byteAt F i) :
    frameChecksum p.layout G = frameChecksum p.layout F := by
  have hend := ckEnd_eq p
  rw [frameChecksum, memRead, slice_congr hl fun i hlo hhi => hbytes i hlo (by omega), frameChecksum, memRead]

theorem frameLenOk_congr {L : Layout} (hlen : frameLen L G = frameLen L F) : frameLenOk L G = frameLenOk L F := by
  rw [frameLenOk, hlen, frameLenOk]

theorem frameChecksumOk_congr {L : Layout} (hspan : frameSpan L G = frameSpan L F)
    (hck : frameChecksum L G = frameChecksum L F) : frameChecksumOk L G = frameChecksumOk L F := by
  rw [frameChecksumOk, hspan, hck, frameChecksumOk]

/-- The content is what the span holds past its first 4 bytes. -/
theorem frameContent_eq_drop_span : frameContent p.layout F = (frameSpan p.layout F).drop 4 := by
  rw [frameContent, frameSpan, contentOff_eq, dataOff_eq, frameContentLen, prefixBytes_eq, slice, slice,
    List.drop_take, List.drop_drop]

/-- The offset is what the span holds in its first 4 bytes. -/
theorem frameOffset_eq_span (hlen : 4 ≤ (frameLen p.layout F).toNat) :
    frameOffset p.layout F = BitVec.ofNat 32 (memRead (frameSpan p.layout F) 0 4) := by
  rw [frameOffset, frameSpan, memRead, memRead, slice_slice (by omega), Nat.add_zero]

theorem four_le_frameLen (hok : frameLenOk p.layout F = true) : 4 ≤ (frameLen p.layout F).toNat := by
  rw [frameLen_toNat]
  exact ((frameLenOk_iff p F).mp hok).1

/-- The span ends before the checksum field. -/
theorem frameSpan_end_le (hok : frameLenOk p.layout F = true) :
    3 + (frameLen p.layout F).toNat ≤ p.layout.ckOff := by
  rw [frameLen_toNat, ckOff_eq]
  exact Nat.add_le_add_left ((frameLenOk_iff p F).mp hok).2 3

/-! A frame is read no further than its 1024 bytes. -/

theorem frameMarkersOk_take : frameMarkersOk p.layout (F.take 1024) = frameMarkersOk p.layout F :=
  frameMarkersOk_congr (byteAt_take (by norm_num)) (byteAt_take (by norm_num))

theorem frameHeader_take : frameHeader p.layout (F.take 1024) = frameHeader p.layout F := by
  have hhdr : p.layout.hdrOff = 1 := by cases p <;> rfl
  rw [frameHeader, memRead_take (by omega), frameHeader]

theorem frameLen_take : frameLen p.layout (F.take 1024) = frameLen p.layout F := by
  rw [frameLen, frameHeader_take, frameLen]

theorem frameId_take : frameId p.layout (F.take 1024) = frameId p.layout F := by
  rw [frameId, frameHeader_take, frameId]

theorem frameChecksum_take : frameChecksum p.layout (F.take 1024) = frameChecksum p.layout F :=
  memRead_take (ckOff_le p)

theorem frameSpan_take (hok : frameLenOk p.layout F = true) :
    frameSpan p.layout (F.take 1024) = frameSpan p.layout F := by
  have hlen := frameSpan_end_le hok
  have hend := ckEnd_eq p
  rw [frameSpan, frameLen_take, dataOff_eq, slice_take (by omega), frameSpan, dataOff_eq]

end

/-- An accepted frame, by what of the frame goes into the state. -/
theorem acceptFrame_congr_but_id {s : State} {F G : List Byte} (hlen : frameLen s.layout G = frameLen s.layout F)
    (hspan : frameSpan s.layout G = frameSpan s.layout F) (hok : frameLenOk s.layout F = true) :
    s.acceptFrame G = { s.acceptFrame F with rxId := frameId s.layout G } := by
  have hpos : 4 ≤ (frameLen s.layout F).toNat := four_le_frameLen hok
  have hcontent : frameContent s.layout G = frameContent s.layout F := by
    rw [layout_eq, frameContent_eq_drop_span, frameContent_eq_drop_span, ← layout_eq, hspan]
  have hoffset : frameOffset s.layout G = frameOffset s.layout F := by
    rw [layout_eq, frameOffset_eq_span (by rwa [← layout_eq, hlen]), frameOffset_eq_span hpos, ← layout_eq, hspan]
  have hcount : frameContentLen s.layout G = frameContentLen s.layout F := by
    rw [frameContentLen, hlen, frameContentLen]
  simp only [State.acceptFrame, hcontent, hoffset, hcount, hlen]
  rfl

/-- The checks look at the markers, LEN, the span and the checksum field alone: two frames that agree there are both
accepted, or leave the same state. -/
theorem validateFrame_congr_cases {s : State} {F G : List Byte}
    (hmark : frameMarkersOk s.layout G = frameMarkersOk s.layout F)
    (hlen : frameLen s.layout G = frameLen s.layout F)
    (hspan : frameLenOk s.layout F = true → frameSpan s.layout G = frameSpan s.layout F)
    (hck : frameChecksum s.layout G = frameChecksum s.layout F) :
    (frameLenOk s.layout F = true ∧ s.validateFrame F = s.acceptFrame F ∧ s.validateFrame G = s.acceptFrame G) ∨
      s.validateFrame G = s.validateFrame F := by
  rw [validateFrame_cases s F, validateFrame_cases s G, hmark, frameLenOk_congr hlen]
  by_cases hok : frameLenOk s.layout F = true
  · rw [frameChecksumOk_congr (hspan hok) hck]
    split_ifs
    · exact .inl ⟨hok, rfl, rfl⟩
    · exact .inr rfl
    · exact .inr rfl
  · right
    simp only [if_neg hok]

theorem validateFrame_take (s : State) (F : List Byte) : s.validateFrame (F.take 1024) = s.validateFrame F := by
  rcases validateFrame_congr_cases (s := s) (F := F) frameMarkersOk_take frameLen_take frameSpan_take
    frameChecksum_take with ⟨hok, hF, hG⟩ | hsame
  · rw [hF, hG, acceptFrame_congr_but_id frameLen_take (frameSpan_take hok) hok, layout_eq, frameId_take]
    rfl
  · exact hsame

/-- VAL.CHUNK, not halted, on the frame at the front of SRC. -/
theorem execValChunk_eq_validateFrame {s : State} (hl : 1024 ≤ s.src.length) (hh : s.rxHalt = 0) :
    execValChunk s = .next ((s.dropSrc 1024).validateFrame s.src) := by
  rw [execValChunk_take hl hh, validateFrame_take]

/-- The same, the frame written apart from what follows it. -/
theorem execValChunk_append {s : State} {F rest : List Byte} (hF : F.length = 1024) (hh : s.rxHalt = 0) :
    execValChunk { s with src := F ++ rest } =
      .next (State.validateFrame F { s with src := rest, srcPos := s.srcPos + 1024 }) := by
  rw [execValChunk_frame (s := { s with src := F ++ rest }) rfl hF hh, State.dropSrc, List.drop_left' hF]

/-! ## The four answers to a frame (R163 to R167) -/

theorem validateFrame_badMarker {s : State} {F : List Byte} (hmark : ¬frameMarkersOk s.layout F = true) :
    s.validateFrame F = s.failRaise .badMarker := by
  rw [validateFrame_cases, if_neg hmark]

theorem validateFrame_badLength {s : State} {F : List Byte} (hmark : frameMarkersOk s.layout F = true)
    (hlen : ¬frameLenOk s.layout F = true) : s.validateFrame F = s.failRaise .badLength := by
  rw [validateFrame_cases, if_pos hmark, if_neg hlen]

/-- The state an accepted frame leaves, in the bytes of the frame. -/
theorem acceptFrame_eq (s : State) (F : List Byte) :
    s.acceptFrame F =
      (((s.acceptRx (BitVec.ofNat 32 (memRead F 3 4)) (BitVec.ofNat 6 (memRead F 1 2 / 1024))
        (BitVec.ofNat 10 (memRead F 1 2 % 1024)) (memRead F 1 2 % 1024 - 4)).appendRbuf
          (slice F 7 (memRead F 1 2 % 1024 - 4))).succeed (.bytesWritten (memRead F 1 2 % 1024 - 4))) := by
  rw [State.acceptFrame, layout_eq, frameContentLen_eq, frameOffset_eq, frameId_eq, frameLen_eq, frameContent_eq]

/-- Settles O28: the first check of R169. -/
theorem valChunkRejectsMarkers : Obligations.ValChunkRejectsMarkers := by
  intro s hh hl hmark
  have hbad : ¬frameMarkersOk s.layout s.src = true := by
    rw [layout_eq, frameMarkersOk_iff]
    tauto
  calc
    exec .valChunk s = .next ((s.dropSrc 1024).validateFrame s.src) := execValChunk_eq_validateFrame hl hh
    _ = .next ((s.dropSrc 1024).failRaise .badMarker) := congrArg _ (validateFrame_badMarker hbad)

/-- Settles O29: the second check of R169; a frame that passes it is accepted or fails the third. -/
theorem valChunkRejectsLength : Obligations.ValChunkRejectsLength := by
  intro s hh hl hfirst hlast
  have hmark : frameMarkersOk s.layout s.src = true := (frameMarkersOk_iff _ _).mpr ⟨hfirst, hlast⟩
  have hrun : exec .valChunk s = .next ((s.dropSrc 1024).validateFrame s.src) := execValChunk_eq_validateFrame hl hh
  rw [hrun]
  constructor
  · intro hout
    have hbad : ¬frameLenOk s.layout s.src = true := by
      rw [layout_eq, frameLenOk_iff, ← layout_eq]
      omega
    exact congrArg _ (validateFrame_badLength hmark hbad)
  · intro hlo hhi
    have hlen : frameLenOk s.layout s.src = true := (frameLenOk_iff _ _).mpr ⟨hlo, hhi⟩
    cases hck : frameChecksumOk s.layout s.src with
    | true =>
      rw [validateFrame_accept (s := s.dropSrc 1024) hmark hlen hck]
      exact ⟨_, _, rfl, rfl, .inl rfl⟩
    | false =>
      rw [validateFrame_mismatch (s := s.dropSrc 1024) hmark hlen hck]
      exact ⟨_, _, rfl, rfl, .inr rfl⟩

/-- Settles O30: the third check of R169. -/
theorem valChunkRejectsChecksum : Obligations.ValChunkRejectsChecksum := by
  intro s hh hl hfirst hlast hlo hhi hne
  have hck : frameChecksumOk s.layout s.src = false := by
    rw [← Bool.not_eq_true]
    exact (frameChecksumOk_iff s.config.profile s.src).not.mpr hne
  calc
    exec .valChunk s = .next ((s.dropSrc 1024).validateFrame s.src) := execValChunk_eq_validateFrame hl hh
    _ = .next ((s.dropSrc 1024).failRaise .checksumMismatch) :=
      congrArg _ (validateFrame_mismatch ((frameMarkersOk_iff _ _).mpr ⟨hfirst, hlast⟩)
        ((frameLenOk_iff _ _).mpr ⟨hlo, hhi⟩) hck)

/-- Settles O31: a frame that passes the three checks of R169. -/
theorem valChunkAccepts : Obligations.ValChunkAccepts := by
  intro s hh hl hfirst hlast hlo hhi hck
  calc
    exec .valChunk s = .next ((s.dropSrc 1024).validateFrame s.src) := execValChunk_eq_validateFrame hl hh
    _ = .next ((s.dropSrc 1024).acceptFrame s.src) :=
      congrArg _ (validateFrame_accept ((frameMarkersOk_iff _ _).mpr ⟨hfirst, hlast⟩)
        ((frameLenOk_iff _ _).mpr ⟨hlo, hhi⟩) ((frameChecksumOk_iff _ _).mpr hck))
    _ = _ := by rw [acceptFrame_eq]; rfl

/-! ## What the encoder emits is accepted (R170, R173) -/

/-- A chunk of R80 at the front of SRC is accepted and its fields come back, an empty content included. -/
theorem execValChunk_chunkBytes {s : State} {id : BitVec 6} {off : Word} {content rest : List Byte}
    (hcap : content.length ≤ s.layout.contentCap) (hh : s.rxHalt = 0)
    (hsrc : s.src = chunkBytes s.layout id off content ++ rest) :
    execValChunk s = .next { s with
      src := rest, srcPos := s.srcPos + 1024
      rxOffset := off, rxId := id, rxLen := BitVec.ofNat 10 (content.length + 4)
      rxCount := s.rxCount + BitVec.ofNat 32 content.length
      rxStatus := 0
      rbuf := s.rbuf ++ content
      completion := some { code := .ok, value := .bytesWritten content.length } } := by
  rw [layout_eq] at hcap hsrc
  set F := chunkBytes s.config.profile.layout id off content with hFdef
  have hF : F.length = 1024 := chunkBytes_length _ _ _ _ hcap
  have hadd := contentCap_add s.config.profile
  have hlen : memRead F 1 2 % 1024 = content.length + 4 := chunkBytes_lenField hcap
  have hid : BitVec.ofNat 6 (memRead F 1 2 / 1024) = id := by
    have hdata := dataCap_le s.config.profile
    rw [hFdef, chunkBytes_header _ _ _ _ hcap, show (id.toNat * 1024 + (content.length + 4)) / 1024 = id.toNat by omega,
      BitVec.ofNat_toNat, BitVec.setWidth_eq]
  have hmark : frameMarkersOk s.layout F = true :=
    (frameMarkersOk_iff _ _).mpr ⟨chunkBytes_first .., chunkBytes_last _ _ _ _ hcap⟩
  have hlenOk : frameLenOk s.layout F = true := (frameLenOk_iff _ _).mpr ⟨by omega, by omega⟩
  have hck : frameChecksumOk s.layout F = true := by
    rw [layout_eq, frameChecksumOk_iff, hlen, hFdef, chunkBytes_checksum _ _ _ _ hcap, chunkBytes_span]
  calc
    execValChunk s = .next ((s.dropSrc 1024).validateFrame F) := execValChunk_frame hsrc hF hh
    _ = .next ((s.dropSrc 1024).acceptFrame F) := congrArg _ (validateFrame_accept hmark hlenOk hck)
    _ = _ := by
      rw [acceptFrame_eq, hlen, hid, Nat.add_sub_cancel, chunkBytes_content, chunkBytes_offset, State.dropSrc, hsrc,
        ← hF, List.drop_left, BitVec.ofNat_toNat, BitVec.setWidth_eq]
      rfl

/-- Settles O32: what ENC.CHUNK appended is a chunk of R80 (O19). -/
theorem validatorAcceptsEncoderOutput : Obligations.ValidatorAcceptsEncoderOutput := by
  intro off content F rest e e' s hpos hcap henc hsink hprofile hh hsrc
  have hlayout : s.layout = e.layout := by rw [layout_eq, hprofile, layout_eq]
  rw [encChunkAppendsOneChunk off content e hpos hcap] at henc
  cases henc
  have hF : F = chunkBytes s.layout e.txId off content := by rw [hlayout]; exact (List.append_cancel_left hsink).symm
  exact execValChunk_chunkBytes (hlayout ▸ hcap) hh (hF ▸ hsrc)

theorem le_zero_eq_zeros (n : Nat) : le n 0 = zeros n := by
  induction n with
  | zero => rfl
  | succ n ih => rw [le, Nat.zero_div, ih]; rfl

theorem crc32z_zeros (n : Nat) : crc32z (zeros n) = 0 := crcFrom_zeros n

/-- The all-zero frame is the chunk of zero bytes at offset 0: the checksum of a zero span is 0. -/
theorem chunkBytes_zeros {p : Profile} {len : BitVec 10} (id : BitVec 6) (hlo : 4 ≤ len.toNat)
    (hhi : len.toNat ≤ p.layout.dataCap) :
    chunkBytes p.layout id 0 (zeros (len.toNat - 4)) =
      [startMark] ++ le 2 (packHeader id len).toNat ++ zeros 1020 ++ [endMark] := by
  have hsize : 1020 = 4 + (len.toNat - 4) + (p.layout.dataCap - len.toNat) + p.layout.cksumBytes := by
    have hoff := ckOff_eq p
    have hend := ckEnd_eq p
    omega
  have hsum : (crc32z (zeros 4 ++ zeros (len.toNat - 4))).toNat = 0 := by rw [← zeros_add, crc32z_zeros]; rfl
  have hoff : le 4 (0 : Word).toNat = zeros 4 := le_zero_eq_zeros 4
  rw [chunkBytes, zeros_length, Nat.sub_add_cancel hlo, BitVec.ofNat_toNat, BitVec.setWidth_eq, hoff, hsum,
    Nat.zero_mod, le_zero_eq_zeros, hsize, zeros_add, zeros_add, zeros_add]
  simp only [List.append_assoc]

/-- Settles O34: the all-zero frame is a chunk of R80. -/
theorem zeroFrameIsAccepted : Obligations.ZeroFrameIsAccepted := by
  intro id len rest s hlo hhi hh hsrc
  have hadd := contentCap_add s.config.profile
  rw [← layout_eq] at hadd
  have hchunk : s.src = chunkBytes s.layout id 0 (zeros (len.toNat - 4)) ++ rest := by
    rw [hsrc, layout_eq, chunkBytes_zeros id hlo hhi]
    rfl
  have hcap : (zeros (len.toNat - 4)).length ≤ s.layout.contentCap := by rw [zeros_length]; omega
  refine ⟨_, execValChunk_chunkBytes hcap hh hchunk, by rw [zeros_length], rfl, rfl, ?rxLen, rfl, rfl⟩
  case rxLen => simp [Nat.sub_add_cancel hlo]

/-! ## The round trip of a sub-binary (R171) -/

/-- `t` is `s` after chunks with the contents `bytes` were accepted: RBUF and RX_COUNT have grown by them, no error
shows, and the encoder's registers and stream are untouched. -/
def HasReceived (bytes : List Byte) (s t : State) : Prop :=
  t.rbuf = s.rbuf ++ bytes ∧ t.rxCount = s.rxCount + BitVec.ofNat 32 bytes.length ∧ t.rxHalt = s.rxHalt ∧
    t.rxSticky = s.rxSticky ∧ t.txId = s.txId ∧ t.sink = s.sink ∧ t.config = s.config

theorem HasReceived.refl (s : State) : HasReceived [] s s := by simp [HasReceived]

theorem HasReceived.trans {xs ys : List Byte} {s t u : State} (hst : HasReceived xs s t) (htu : HasReceived ys t u) :
    HasReceived (xs ++ ys) s u := by
  obtain ⟨hrbuf, hcount, hhalt, hsticky, htx, hsink, hconfig⟩ := hst
  obtain ⟨hrbuf', hcount', hhalt', hsticky', htx', hsink', hconfig'⟩ := htu
  refine ⟨?rbuf, ?count, hhalt'.trans hhalt, hsticky'.trans hsticky, htx'.trans htx, hsink'.trans hsink,
    hconfig'.trans hconfig⟩
  case rbuf => rw [hrbuf', hrbuf, List.append_assoc]
  case count => rw [hcount', hcount, List.length_append, BitVec.ofNat_add, BitVec.add_assoc]

/-- One VAL.CHUNK on chunk `k` of a sub-binary. -/
theorem execValChunk_chunkOfBlob {p : Profile} {id : BitVec 6} {blob rest : List Byte} {k : Nat} {s : State}
    (hp : s.config.profile = p) (hh : s.rxHalt = 0) (hsrc : s.src = chunkOfBlob p.layout id blob k ++ rest) :
    ∃ t, execValChunk s = .next t ∧ HasReceived (chunkContent p.layout blob k) s t ∧ t.src = rest ∧
      t.script = s.script ∧ ∃ v, t.completion = some { code := .ok, value := v } := by
  subst hp
  have hcap : (chunkContent s.layout blob k).length ≤ s.layout.contentCap := by
    rw [chunkContent_length]
    exact min_le_left ..
  exact ⟨_, execValChunk_chunkBytes hcap hh hsrc, ⟨rfl, rfl, rfl, rfl, rfl, rfl, rfl⟩, rfl, rfl, _, rfl⟩

theorem take_succ_mul_contentCap (L : Layout) (blob : List Byte) (k : Nat) :
    blob.take ((k + 1) * L.contentCap) = blob.take (k * L.contentCap) ++ chunkContent L blob k := by
  simp [← flatten_chunkContent, List.range_succ]

/-- The first `j` of `n` VAL.CHUNK requests, with `n` chunks of a sub-binary in SRC: the `j`-th is accepted, and what
has come so far is the front of the sub-binary. -/
theorem runSteps_valChunks {p : Profile} {id : BitVec 6} {blob : List Byte} {n : Nat} {s : State}
    (hp : s.config.profile = p) (hh : s.rxHalt = 0) (hscript : s.script = List.replicate n (issueInstr .valChunk))
    (hsrc : s.src = chunksFrom p.layout id blob 0 n) (j : Nat) (hj : j ≤ n) :
    ∃ t, runSteps j s = .next t ∧ HasReceived (blob.take (j * p.layout.contentCap)) s t ∧
      t.src = chunksFrom p.layout id blob j (n - j) ∧ t.script = List.replicate (n - j) (issueInstr .valChunk) ∧
      (0 < j → ∃ v, t.completion = some { code := .ok, value := v }) := by
  induction j with
  | zero => exact ⟨s, rfl, by simpa using HasReceived.refl s, hsrc, hscript, fun h => absurd h (lt_irrefl 0)⟩
  | succ j ih =>
    obtain ⟨t, hrun, hrec, htsrc, htscript, -⟩ := ih (by omega)
    have ⟨_, _, hhalt, _, _, _, hconfig⟩ := hrec
    rw [show n - j = n - (j + 1) + 1 by omega] at htsrc htscript
    rw [chunksFrom_succ] at htsrc
    have hstep : step t = execValChunk { t with script := List.replicate (n - (j + 1)) (issueInstr .valChunk) } :=
      stepRunsTheDecodedInstruction t _ _ _ .valChunk htscript (decodeOfEncode .valChunk rfl)
    obtain ⟨u, hexec, hrec', husrc, huscript, hok⟩ := execValChunk_chunkOfBlob
      (s := { t with script := List.replicate (n - (j + 1)) (issueInstr .valChunk) })
      (by rw [← hp, ← hconfig]) (hhalt.trans hh) htsrc
    refine ⟨u, ?run, ?received, husrc, huscript, fun _ => hok⟩
    case run => rw [runSteps_add j 1 hrun, runSteps_succ 0 (hstep.trans hexec), runSteps_zero]
    case received => exact take_succ_mul_contentCap p.layout blob j ▸ hrec.trans hrec'

theorem take_chunkCount_mul_contentCap (p : Profile) (blob : List Byte) :
    blob.take (chunkCount p.layout blob.length * p.layout.contentCap) = blob :=
  List.take_of_length_le (Nat.not_lt.mp ((lt_chunkCount_iff p _ blob.length).not.mp (lt_irrefl _)))

/-- Settles O33: every VAL.CHUNK meets the next chunk of the blob (`runSteps_valChunks`); after the last one all of the
blob has come. -/
theorem blobRoundTrip : Obligations.BlobRoundTrip := by
  intro blob F e e' s hsize henc hsink hprofile hh hsrc
  set n := chunkCount s.layout blob.length with hn
  have hlayout : s.layout = e.layout := by rw [layout_eq, hprofile, layout_eq]
  have hF : F = chunksFrom s.layout e.txId blob 0 n := by
    rw [exec, execEncBlob_eq e hsize] at henc
    cases henc
    rw [hn, hlayout]
    exact (List.append_cancel_left hsink).symm
  have hruns := runSteps_valChunks (p := s.config.profile) (id := e.txId) (blob := blob) (n := n)
    (s := { s with script := List.replicate n (issueInstr .valChunk) }) rfl hh rfl (hsrc.trans hF)
  constructor
  · intro j hj
    obtain ⟨u, hrun, -, -, -, hok⟩ := hruns (j + 1) hj
    obtain ⟨v, hv⟩ := hok (Nat.succ_pos j)
    exact ⟨u, v, hrun, hv⟩
  · obtain ⟨t, hrun, hrec, htsrc, -, -⟩ := hruns n le_rfl
    rw [hn, layout_eq, take_chunkCount_mul_contentCap] at hrec
    obtain ⟨hrbuf, hcount, hhalt, hsticky, htx, htsink, -⟩ := hrec
    rw [Nat.sub_self, chunksFrom_zero] at htsrc
    exact ⟨t, hrun, hrbuf, hcount, htsrc, hhalt.trans hh, hsticky, htx, htsink⟩

/-! ## What is not checked (R172 (c) and (e), R106, R174) -/

/-- Settles O35: the frames agree in everything `validateFrame_congr_cases` names, and an accepted one leaves its ID in
RX_ID alone. -/
theorem idAndPaddingAreNotChecked : Obligations.IdAndPaddingAreNotChecked := by
  intro s F G rest t u hF hagree hok ht hu
  obtain ⟨hl, hbytes, htwo⟩ := hagree
  by_cases hh : s.rxHalt = 1
  · cases (valChunkHaltedChangesNothing { s with src := F ++ rest } hh).symm.trans ht
    cases (valChunkHaltedChangesNothing { s with src := G ++ rest } hh).symm.trans hu
    exact ⟨rfl, fun hrun => by rw [hh] at hrun; cases hrun⟩
  cases (execValChunk_append hF (bit1_eq_zero_of_ne_one hh)).symm.trans ht
  cases (execValChunk_append (hl.trans hF) (bit1_eq_zero_of_ne_one hh)).symm.trans hu
  have hend : s.layout.ckOff + s.layout.cksumBytes = 1023 := ckEnd_eq _
  have hspanEnd : 3 + (frameLen s.layout F).toNat ≤ s.layout.ckOff := frameSpan_end_le hok
  have hlen : frameLen s.layout G = frameLen s.layout F := frameLen_congr (hbytes 1 (by omega) (by omega)) htwo
  have hmark : frameMarkersOk s.layout G = frameMarkersOk s.layout F :=
    frameMarkersOk_congr (hbytes 0 (by omega) (by omega)) (hbytes 1023 (by omega) (by omega))
  have hspan : frameSpan s.layout G = frameSpan s.layout F :=
    frameSpan_congr hl hlen fun i hlo (hhi : i < 3 + (frameLen s.layout F).toNat) =>
      hbytes i (by omega) (by omega)
  have hck : frameChecksum s.layout G = frameChecksum s.layout F :=
    frameChecksum_congr hl fun i (hlo : s.layout.ckOff ≤ i) _ => hbytes i (by omega) (by omega)
  rcases validateFrame_congr_cases (s := { s with src := rest, srcPos := s.srcPos + 1024 }) hmark hlen
    (fun _ => hspan) hck with ⟨-, htF, huG⟩ | hsame
  · rw [htF, huG]
    exact ⟨acceptFrame_congr_but_id hlen hspan hok, fun _ => rfl⟩
  · rw [hsame]
    exact ⟨rfl, fun _ => rfl⟩

/-- Two states of one layout answer a frame alike and append the same bytes. -/
theorem validateFrame_answer {s s' : State} (F : List Byte) (hlayout : s'.layout = s.layout) :
    (s'.validateFrame F).completion = (s.validateFrame F).completion ∧
      (s'.validateFrame F).rbuf.drop s'.rbuf.length = (s.validateFrame F).rbuf.drop s.rbuf.length := by
  rw [validateFrame_cases, validateFrame_cases, hlayout]
  split_ifs <;> simp [hlayout]

/-- Settles O39: halted, or with `validateFrame_answer`. -/
theorem answerDependsOnTheFrameAlone : Obligations.AnswerDependsOnTheFrameAlone := by
  intro s s' t t' hprofile hhalt hl hl' hfront ht ht'
  by_cases hh : s.rxHalt = 1
  · cases (valChunkHaltedChangesNothing s hh).symm.trans ht
    cases (valChunkHaltedChangesNothing s' (hhalt.trans hh)).symm.trans ht'
    exact ⟨rfl, by simp⟩
  · have hrun := bit1_eq_zero_of_ne_one hh
    cases (execValChunk_take hl hrun).symm.trans ht
    cases (execValChunk_take hl' (hhalt.trans hrun)).symm.trans ht'
    rw [hfront]
    exact validateFrame_answer (s := s.dropSrc 1024) (s' := s'.dropSrc 1024) _ (by simp [layout_eq, hprofile])

/-! ## Which changes of an accepted frame are noticed (R172 (b) and (f)) -/

theorem byteAt_set_ne {F : List Byte} {i j : Nat} (x : Byte) (h : i ≠ j) : byteAt (F.set i x) j = byteAt F j := by
  simp [byteAt, List.getElem?_set_ne h]

theorem slice_set {F : List Byte} {a n i : Nat} (x : Byte) : slice (F.set (a + i) x) a n = (slice F a n).set i x := by
  rw [slice, List.drop_set, if_neg (by omega), Nat.add_sub_cancel_left, List.take_set, slice]

theorem crc32z_set_xor {S : List Byte} {i : Nat} (d : Byte) (hi : i < S.length) :
    crc32z (S.set i (byteAt S i ^^^ d)) = crc32z S ^^^ crcBits (8 * (S.length - (i + 1)) + 8) (d.setWidth 32) := by
  have hchange := crc_change_byte (S.take i) (S.drop (i + 1)) (byteAt S i) d
  rw [List.length_drop] at hchange
  have hsplit : S.take i ++ byteAt S i :: S.drop (i + 1) = S := by
    rw [byteAt_eq_getElem hi]
    simp
  rw [List.set_eq_take_append_cons_drop, if_pos hi, hchange, hsplit]

theorem reduceChecksum_xor (L : Layout) (a b : Word) :
    reduceChecksum L (a ^^^ b) = reduceChecksum L a ^^^ reduceChecksum L b := by
  rw [reduceChecksum, BitVec.toNat_xor, Nat.xor_mod_two_pow, reduceChecksum, reduceChecksum]

section
variable {s t : State} {F rest : List Byte}

/-- What it says of a frame that VAL.CHUNK accepted it. -/
theorem checks_of_accepted (hF : F.length = 1024) (hh : s.rxHalt = 0)
    (ht : exec .valChunk { s with src := F ++ rest } = .next t)
    (hok : ∃ v, t.completion = some { code := .ok, value := v }) :
    frameMarkersOk s.layout F = true ∧ frameLenOk s.layout F = true ∧ frameChecksumOk s.layout F = true := by
  cases (execValChunk_append hF hh).symm.trans ht
  exact (validateFrame_ok_iff { s with src := rest, srcPos := s.srcPos + 1024 } F).mp hok

/-- A changed frame whose markers and LEN are right as before is answered by its checksum. -/
theorem execValChunk_changed {G : List Byte} (hG : G.length = 1024) (hh : s.rxHalt = 0)
    (hmark : frameMarkersOk s.layout F = true) (hlen : frameLenOk s.layout F = true)
    (hedge : ∀ i, i < 3 ∨ i = 1023 → byteAt G i = byteAt F i) :
    ∃ u, exec .valChunk { s with src := G ++ rest } = .next u ∧
      if frameChecksumOk s.layout G = true then ∃ v, u.completion = some { code := .ok, value := v }
      else u.completion = some { code := .checksumMismatch, value := .none } := by
  have hmarkG : frameMarkersOk s.layout G = true :=
    (frameMarkersOk_congr (hedge 0 (by omega)) (hedge 1023 (by omega))).trans hmark
  have hlenG : frameLenOk s.layout G = true :=
    (frameLenOk_congr (frameLen_congr (hedge 1 (by omega)) (by rw [hedge 2 (by omega)]))).trans hlen
  refine ⟨_, execValChunk_append hG hh, ?_⟩
  split_ifs with hck
  · exact (validateFrame_ok_iff _ G).mpr ⟨hmarkG, hlenG, hck⟩
  · rw [Bool.not_eq_true] at hck
    rw [validateFrame_mismatch (s := { s with src := rest, srcPos := s.srcPos + 1024 }) hmarkG hlenG hck]
    rfl

/-- One changed byte of the span shows in the checksum unless the bit steps of the change reduce to 0. -/
theorem frameChecksumOk_set_iff {p : Profile} {i : Nat} {d : Byte} (hF : F.length = 1024)
    (hlen : frameLenOk p.layout F = true) (hck : frameChecksumOk p.layout F = true)
    (hi : i < (frameLen p.layout F).toNat) :
    frameChecksumOk p.layout (F.set (3 + i) (byteAt F (3 + i) ^^^ d)) = true ↔
      reduceChecksum p.layout (crcBits (8 * ((frameLen p.layout F).toNat - (i + 1)) + 8) (d.setWidth 32)) = 0 := by
  set x := byteAt F (3 + i) ^^^ d with hx
  have hspanEnd := frameSpan_end_le hlen
  have hend := ckEnd_eq p
  have hsame : frameLen p.layout (F.set (3 + i) x) = frameLen p.layout F :=
    frameLen_congr (byteAt_set_ne x (by omega)) (by rw [byteAt_set_ne x (by omega)])
  have hfield : frameChecksum p.layout (F.set (3 + i) x) = frameChecksum p.layout F :=
    frameChecksum_congr List.length_set fun j hlo _ => byteAt_set_ne x (by omega)
  have hspanLen : (frameSpan p.layout F).length = (frameLen p.layout F).toNat :=
    slice_length_of_le (by rw [dataOff_eq]; omega)
  have hspan : frameSpan p.layout (F.set (3 + i) x) =
      (frameSpan p.layout F).set i (byteAt (frameSpan p.layout F) i ^^^ d) := by
    rw [frameSpan, hsame, frameSpan, dataOff_eq, slice_set, byteAt_slice hi]
  rw [frameChecksumOk, beq_iff_eq] at hck ⊢
  rw [hspan, hfield, crc32z_set_xor d (by omega), reduceChecksum_xor, hck, xor_left_eq_self_iff, hspanLen]

/-- R172 (b): the answer to an accepted frame with one changed byte of the span. -/
theorem execValChunk_oneByteChange {p : Nat} {d : Byte} (hF : F.length = 1024) (hh : s.rxHalt = 0)
    (ht : exec .valChunk { s with src := F ++ rest } = .next t)
    (hok : ∃ v, t.completion = some { code := .ok, value := v }) (hp : p < (frameLen s.layout F).toNat) :
    ∃ u, exec .valChunk { s with src := F.set (3 + p) (byteAt F (3 + p) ^^^ d) ++ rest } = .next u ∧
      if reduceChecksum s.layout (crcBits (8 * ((frameLen s.layout F).toNat - (p + 1)) + 8) (d.setWidth 32)) = 0
      then ∃ v, u.completion = some { code := .ok, value := v }
      else u.completion = some { code := .checksumMismatch, value := .none } := by
  obtain ⟨hmark, hlen, hck⟩ := checks_of_accepted hF hh ht hok
  have hspanEnd : 3 + (frameLen s.layout F).toNat ≤ s.layout.ckOff := frameSpan_end_le hlen
  have hend : s.layout.ckOff + s.layout.cksumBytes = 1023 := ckEnd_eq _
  obtain ⟨u, hu, hanswer⟩ := execValChunk_changed (rest := rest) (List.length_set.trans hF) hh hmark hlen
    fun i hi => byteAt_set_ne (byteAt F (3 + p) ^^^ d) (show 3 + p ≠ i by omega)
  exact ⟨u, hu, (if_congr (frameChecksumOk_set_iff hF hlen hck hp) rfl rfl).mp hanswer⟩

end

theorem reduceChecksum_w (a : Word) : reduceChecksum Profile.w.layout a = a.toNat := Nat.mod_eq_of_lt a.isLt

theorem reduceChecksum_t (a : Word) : reduceChecksum Profile.t.layout a = lowHalf a := rfl

theorem byte_eq_zero_of_setWidth {d : Byte} (h : d.setWidth 32 = 0) : d = 0 := by
  apply BitVec.eq_of_toNat_eq
  have hval := congrArg BitVec.toNat h
  have hlt := d.isLt
  rwa [BitVec.toNat_setWidth, Nat.mod_eq_of_lt (by omega)] at hval

/-- Settles O36: profile W keeps all 32 bits, and no bit step makes a nonzero word zero. -/
theorem oneByteChangeDetectedInProfileW : Obligations.OneByteChangeDetectedInProfileW := by
  intro s t F rest p d hprofile hF hh ht hok hp hd
  obtain ⟨u, hu, hanswer⟩ := execValChunk_oneByteChange (d := d) hF hh ht hok hp
  refine ⟨u, hu, ?_⟩
  rwa [if_neg] at hanswer
  intro hzero
  rw [layout_eq, hprofile, reduceChecksum_w] at hzero
  exact hd (byte_eq_zero_of_setWidth (crcBits_eq_zero (BitVec.eq_of_toNat_eq hzero)))

/-- Settles O37: profile T keeps the low half, which misses one change (`lowHalf_crcBits_byte_eq_zero_iff`). -/
theorem oneByteChangeInProfileT : Obligations.OneByteChangeInProfileT := by
  intro s t F rest p d hprofile hF hh ht hok hp hd
  obtain ⟨-, hlen, -⟩ := checks_of_accepted hF hh ht hok
  have hspanEnd : 3 + (frameLen s.layout F).toNat ≤ s.layout.ckOff := frameSpan_end_le hlen
  have hoff : s.layout.ckOff = 1021 := by rw [layout_eq, hprofile]; rfl
  have hmiss : reduceChecksum s.layout
      (crcBits (8 * ((frameLen s.layout F).toNat - (p + 1)) + 8) (d.setWidth 32)) = 0 ↔
      d = 0xF1 ∧ p + 500 = (frameLen s.layout F).toNat := by
    rw [layout_eq s, hprofile, reduceChecksum_t, ← hprofile, ← layout_eq,
      lowHalf_crcBits_byte_eq_zero_iff hd (by omega)]
    exact and_congr_right fun _ => by omega
  obtain ⟨u, hu, hanswer⟩ := execValChunk_oneByteChange (d := d) hF hh ht hok hp
  exact ⟨u, hu, (if_congr hmiss rfl rfl).mp hanswer⟩

/-- Settles O38: the span is as before, and its checksum is what the field held. -/
theorem checksumFieldChangeDetected : Obligations.ChecksumFieldChangeDetected := by
  intro s t F ck rest hF hh ht hok hck hne
  obtain ⟨hmark, hlen, hsum⟩ := checks_of_accepted hF hh ht hok
  have hspanEnd : 3 + (frameLen s.layout F).toNat ≤ s.layout.ckOff := frameSpan_end_le hlen
  have hend : s.layout.ckOff + s.layout.cksumBytes = 1023 := ckEnd_eq _
  set G := writeAt F s.layout.ckOff ck with hG
  have hl : G.length = F.length := writeAt_length (by omega)
  have hbefore (i : Nat) (hi : i < s.layout.ckOff) : byteAt G i = byteAt F i := byteAt_writeAt_of_lt hi (by omega)
  have hsameLen : frameLen s.layout G = frameLen s.layout F :=
    frameLen_congr (p := s.config.profile) (hbefore 1 (by omega)) (by rw [hbefore 2 (by omega)])
  have hspan : frameSpan s.layout G = frameSpan s.layout F :=
    frameSpan_congr (p := s.config.profile) hl hsameLen fun i _ hi => hbefore i (hi.trans_le hspanEnd)
  have hfield : frameChecksum s.layout G = unle ck := by
    rw [frameChecksum, memRead, ← hck, hG, slice_writeAt_self (by omega)]
  have hbad : ¬frameChecksumOk s.layout G = true := by
    rw [frameChecksumOk, beq_iff_eq] at hsum ⊢
    rw [hspan, hfield, hsum]
    intro hsame
    exact hne (unle_injective (by rw [hck, slice_length_of_le (by omega)]) hsame.symm)
  have hlast : byteAt G 1023 = byteAt F 1023 := byteAt_writeAt_of_ge (by omega) (by omega)
  obtain ⟨u, hu, hanswer⟩ := execValChunk_changed (rest := rest) (hl.trans hF) hh hmark hlen (by
    rintro i (hi | rfl)
    · exact hbefore i (by omega)
    · exact hlast)
  exact ⟨u, hu, by rwa [if_neg hbad] at hanswer⟩

/-! ## The encoder and the CRC unit beside the validator (R168) -/

/-- Settles O49: the closed form of each of the four operations reads the configuration, TX_ID and SINK alone. -/
theorem encoderIgnoresValidator : Obligations.EncoderIgnoresValidator := by
  intro i s s' t hi hconfig htx hsink ht
  have hlayout : s'.layout = s.layout := by rw [State.layout, hconfig, State.layout]
  rcases hi with ⟨span, rfl⟩ | rfl | ⟨off, content, rfl⟩ | ⟨blob, rfl⟩
  · cases ht
    simp [exec, execCrcSpan, State.succeed, htx, hsink]
  · cases ht
    simp [exec, execEncInit, State.setTxId, State.succeed, hconfig, hsink]
  · rw [exec] at ht ⊢
    rcases execEncChunk_cases off content s with ⟨hout, h⟩ | ⟨hpos, hcap, h⟩
    · cases h.symm.trans ht
      rw [execEncChunk_outOfRange (hlayout ▸ hout)]
      simp [State.raise, htx, hsink]
    · cases h.symm.trans ht
      rw [execEncChunk_inRange hpos (hlayout ▸ hcap)]
      simp [State.emitChunk, State.appendSink, State.setTxId, State.succeed, hlayout, htx, hsink]
  · rw [exec] at ht ⊢
    have hsize := execEncBlob_next ht
    cases (execEncBlob_eq s hsize).symm.trans ht
    rw [execEncBlob_eq s' hsize]
    simp [State.appendSink, State.setTxId, State.succeed, hlayout, htx, hsink]

end Sys2Proof.Machine
end

section
/-! PROOFS. The descriptors and the Header Builder (spec/44_host_protocol.md R190 to R196): the fields of a descriptor
read back, and where in the logical stream each sub-binary starts. -/

namespace Sys2Proof.Machine

/-! ## A descriptor's bytes -/

@[simp] theorem writeWord_length (v : Word) : (writeWord v).length = 4 := le_length ..

theorem unle_writeWord (v : Word) : unle (writeWord v) = v.toNat := unle_le_of_lt v.isLt

theorem fieldAt_writeWord {A : List Byte} {off : Nat} (v : Word) (C : List Byte) (hA : A.length = off) :
    fieldAt (A ++ (writeWord v ++ C)) off = v := by
  rw [fieldAt, memRead_append_exact A _ C hA (writeWord_length v), unle_writeWord, BitVec.ofNat_toNat,
    BitVec.setWidth_eq]

@[simp] theorem MainDescriptor.encode_length (fill : Byte) (m : MainDescriptor) :
    (m.encode fill).length = mainDescriptorSize := by
  simp [MainDescriptor.encode, mainDescriptorSize]

@[simp] theorem SubDescriptor.encode_length (fill : Byte) (d : SubDescriptor) :
    (d.encode fill).length = subDescriptorSize := by
  simp [SubDescriptor.encode, subDescriptorSize]

@[simp] theorem MainDescriptor.decode_encode (fill : Byte) (m : MainDescriptor) :
    MainDescriptor.decode (m.encode fill) = m := by
  have hwatermark : fieldAt (m.encode fill) 0 = m.watermark := by
    simpa [MainDescriptor.encode] using fieldAt_writeWord (A := []) m.watermark _ rfl
  have hcount : fieldAt (m.encode fill) 4 = m.subCount := by
    simpa [MainDescriptor.encode] using fieldAt_writeWord (A := writeWord m.watermark) m.subCount _ (by simp)
  rw [MainDescriptor.decode, hwatermark, hcount]

@[simp] theorem SubDescriptor.decode_encode (fill : Byte) (d : SubDescriptor) :
    SubDescriptor.decode (d.encode fill) = d := by
  have hwatermark : fieldAt (d.encode fill) 0 = d.watermark := by
    simpa [SubDescriptor.encode] using fieldAt_writeWord (A := []) d.watermark _ rfl
  have hstart : fieldAt (d.encode fill) 4 = d.startOffset := by
    simpa [SubDescriptor.encode] using fieldAt_writeWord (A := writeWord d.watermark) d.startOffset _ (by simp)
  have hsize : fieldAt (d.encode fill) 8 = d.size := by
    simpa [SubDescriptor.encode] using
      fieldAt_writeWord (A := writeWord d.watermark ++ writeWord d.startOffset) d.size _ (by simp)
  have hsum : fieldAt (d.encode fill) 12 = d.checksum := by
    simpa [SubDescriptor.encode] using
      fieldAt_writeWord (A := writeWord d.watermark ++ writeWord d.startOffset ++ writeWord d.size) d.checksum _
        (by simp)
  rw [SubDescriptor.decode, hwatermark, hstart, hsize, hsum]

/-- Settles O52: each field is read where the encoder wrote it, before the reserved bytes. -/
theorem descriptorsReadBack : Obligations.DescriptorsReadBack :=
  ⟨fun _ _ _ _ _ => rfl, fun fill m d => ⟨m.encode_length fill, m.decode_encode fill, d.encode_length fill,
    d.decode_encode fill, rfl, rfl⟩⟩

/-! ## Where the sub-binaries start (R193, R194) -/

/-- Where sub-binary `k` starts, counted from where the first one does: the aligned sizes of those before it. -/
def startOf (blobs : List (List Byte)) (k : Nat) : Nat := ((blobs.take k).map fun blob => align4 blob.length).sum

@[simp] theorem startOf_zero (blobs : List (List Byte)) : startOf blobs 0 = 0 := rfl

theorem startOf_cons_succ (blob : List Byte) (blobs : List (List Byte)) (k : Nat) :
    startOf (blob :: blobs) (k + 1) = align4 blob.length + startOf blobs k := by
  simp [startOf]

theorem startOf_succ {blobs : List (List Byte)} {k : Nat} {blob : List Byte} (h : blobs[k]? = some blob) :
    startOf blobs (k + 1) = startOf blobs k + align4 blob.length := by
  simp [startOf, List.take_add_one, h]

theorem startOf_mod_four (blobs : List (List Byte)) (k : Nat) : startOf blobs k % 4 = 0 := by
  refine Nat.mod_eq_zero_of_dvd (List.dvd_sum fun n hn => ?_)
  obtain ⟨blob, -, rfl⟩ := List.mem_map.mp hn
  exact Nat.dvd_of_mod_eq_zero (align4_mod blob.length)

/-- Every sub-binary ends by the last end offset. -/
theorem startOf_add_length_le_endFrom {blobs : List (List Byte)} {k : Nat} {blob : List Byte} (cur : Nat)
    (h : blobs[k]? = some blob) : cur + startOf blobs k + blob.length ≤ endFrom cur blobs := by
  induction blobs generalizing cur k with
  | nil => simp at h
  | cons b blobs ih =>
    obtain ⟨hfirst, hrest⟩ := endFrom_cons_lt (Nat.lt_succ_self (endFrom cur (b :: blobs)))
    cases k with
    | zero =>
      obtain rfl : b = blob := by simpa using h
      exact Nat.lt_succ_iff.mp hfirst
    | succ k =>
      rw [List.getElem?_cons_succ] at h
      obtain ⟨-, hend⟩ := hrest (by rintro rfl; simp at h)
      have hle := ih (cur + align4 b.length) h
      rw [startOf_cons_succ]
      omega

theorem length_lt_of_transferEnd_lt {blobs : List (List Byte)} {blob : List Byte} (hend : transferEnd blobs < 2 ^ 32)
    (h : blob ∈ blobs) : blob.length < 2 ^ 32 := by
  obtain ⟨k, hk⟩ := List.mem_iff_getElem?.mp h
  have hle := startOf_add_length_le_endFrom (descriptorBytes blobs.length) hk
  rw [transferEnd] at hend
  omega

/-! ## What the Header Builder says of each sub-binary -/

/-- The SubDescriptor of sub-binary `i`, which starts at `cur` (R192, R193). -/
def describe (P : HostParams) (i cur : Nat) (blob : List Byte) : SubDescriptor :=
  { watermark := P.subWatermark i, startOffset := BitVec.ofNat 32 cur, size := BitVec.ofNat 32 blob.length
    checksum := crc32z blob }

theorem buildSubs_cons (P : HostParams) (i cur : Nat) (blob : List Byte) (blobs : List (List Byte)) :
    buildSubs P i cur (blob :: blobs) =
      describe P i cur blob :: buildSubs P (i + 1) (cur + align4 blob.length) blobs := rfl

theorem describe_startOffset {P : HostParams} {i cur : Nat} {blob : List Byte} (h : cur < 2 ^ 32) :
    (describe P i cur blob).startOffset.toNat = cur := Nat.mod_eq_of_lt h

theorem describe_size {P : HostParams} {i cur : Nat} {blob : List Byte} (h : blob.length < 2 ^ 32) :
    (describe P i cur blob).size.toNat = blob.length := Nat.mod_eq_of_lt h

@[simp] theorem buildSubs_length (P : HostParams) (i cur : Nat) (blobs : List (List Byte)) :
    (buildSubs P i cur blobs).length = blobs.length := by
  induction blobs generalizing i cur with
  | nil => rfl
  | cons blob blobs ih => rw [buildSubs_cons, List.length_cons, ih, List.length_cons]

theorem getElem?_buildSubs (P : HostParams) (i cur : Nat) (blobs : List (List Byte)) (k : Nat) :
    (buildSubs P i cur blobs)[k]? = (blobs[k]?).map (describe P (i + k) (cur + startOf blobs k)) := by
  induction blobs generalizing i cur k with
  | nil => rfl
  | cons blob blobs ih =>
    rw [buildSubs_cons]
    cases k with
    | zero => rfl
    | succ k =>
      rw [List.getElem?_cons_succ, List.getElem?_cons_succ, ih, startOf_cons_succ, Nat.add_assoc cur,
        Nat.add_right_comm, Nat.add_assoc i]

/-- Under R196's bound no field of a SubDescriptor is truncated. -/
theorem getElem?_buildDescriptors {P : HostParams} {blobs : List (List Byte)} {k : Nat} {d : SubDescriptor}
    (hend : transferEnd blobs < 2 ^ 32) (hd : (buildDescriptors P blobs).2[k]? = some d) :
    ∃ blob, blobs[k]? = some blob ∧ d.watermark = P.subWatermark k ∧
      d.startOffset.toNat = descriptorBytes blobs.length + startOf blobs k ∧ d.size.toNat = blob.length ∧
      d.checksum = crc32z blob := by
  rw [buildDescriptors, getElem?_buildSubs, Nat.zero_add] at hd
  obtain ⟨blob, hblob, rfl⟩ := Option.map_eq_some_iff.mp hd
  have hle := startOf_add_length_le_endFrom (descriptorBytes blobs.length) hblob
  rw [transferEnd] at hend
  exact ⟨blob, hblob, rfl, describe_startOffset (by omega), describe_size (by omega), rfl⟩

/-- Settles O53: descriptor `k` starts at the descriptor bytes plus `startOf blobs k` (`getElem?_buildDescriptors`). -/
theorem offsetsAreAlignedAndChained : Obligations.OffsetsAreAlignedAndChained := by
  intro P blobs hend
  refine ⟨buildSubs_length .., fun d hd => ?first, fun k d blob hd hblob => ?fields, fun k d d' hd hd' => ?chained⟩
  case first =>
    rw [List.head?_eq_getElem?] at hd
    obtain ⟨-, -, -, hstart, -, -⟩ := getElem?_buildDescriptors hend hd
    exact hstart
  case fields =>
    obtain ⟨blob', hblob', hwatermark, hstart, hsize, hsum⟩ := getElem?_buildDescriptors hend hd
    obtain rfl : blob' = blob := Option.some.inj (hblob'.symm.trans hblob)
    have halign := startOf_mod_four blobs k
    refine ⟨hwatermark, hsize, hsum, ?_⟩
    rw [hstart, descriptorBytes, mainDescriptorSize, subDescriptorSize]
    omega
  case chained =>
    obtain ⟨blob, hblob, -, hstart, hsize, -⟩ := getElem?_buildDescriptors hend hd
    obtain ⟨-, -, -, hstart', -, -⟩ := getElem?_buildDescriptors hend hd'
    rw [hstart, hsize, hstart', startOf_succ hblob, Nat.add_assoc]

end Sys2Proof.Machine
end

section
/-! PROOFS. The sending host (spec/44_host_protocol.md R197, R198): what each part of its script does to the block, and
the stream that all of it leaves on SINK. -/

namespace Sys2Proof.Machine

/-! ## Runs of a script -/

/-- The acts take the block from `s` to `t`, whatever the host does after them; the scripts of `s` and `t` are left
out of account. -/
def RunsTo (acts : List HostEvent) (s t : State) : Prop :=
  ∀ rest, runSteps acts.length { s with script := acts ++ rest } = .next { t with script := rest }

theorem RunsTo.refl (s : State) : RunsTo [] s s := fun _ => rfl

theorem RunsTo.append {acts acts' : List HostEvent} {s t u : State} (hst : RunsTo acts s t) (htu : RunsTo acts' t u) :
    RunsTo (acts ++ acts') s u := by
  intro rest
  rw [List.length_append, List.append_assoc, runSteps_add _ _ (hst (acts' ++ rest))]
  exact htu rest

theorem RunsTo.appendSink (bytes : List Byte) (s : State) :
    RunsTo [.appendSink bytes] s { s with sink := s.sink ++ bytes } := fun _ => rfl

theorem RunsTo.issue {i : Instr} {s t : State} (hwf : i.wellFormed = true)
    (h : ∀ rest, exec i { s with script := rest } = .next { t with script := rest }) : RunsTo [issueInstr i] s t :=
  fun rest => runSteps_succ 0 ((step_issueInstr s rest hwf).trans (h rest))

/-! ## The parts of the sender's script -/

/-- One CRC.SPAN for each sub-binary: only the completion changes. -/
theorem runsTo_crcSpans (blobs : List (List Byte)) (s : State) :
    ∃ c, RunsTo (blobs.map fun blob => issueInstr (.crcSpan blob)) s { s with completion := c } := by
  induction blobs generalizing s with
  | nil => exact ⟨s.completion, .refl s⟩
  | cons blob blobs ih =>
    have hfirst : RunsTo [issueInstr (.crcSpan blob)] s (s.succeed (.crc (crc32z blob))) := .issue rfl fun _ => rfl
    obtain ⟨c, hrest⟩ := ih (s.succeed (.crc (crc32z blob)))
    exact ⟨c, hfirst.append hrest⟩

theorem runsTo_subDescriptors (fill : Byte) (subs : List SubDescriptor) (s : State) :
    RunsTo (subs.map fun d => .appendSink (d.encode fill)) s
      { s with sink := s.sink ++ (subs.map fun d => d.encode fill).flatten } := by
  induction subs generalizing s with
  | nil => simpa using RunsTo.refl s
  | cons d subs ih =>
    have hrest := ih { s with sink := s.sink ++ d.encode fill }
    rw [List.append_assoc] at hrest
    exact (RunsTo.appendSink (d.encode fill) s).append hrest

theorem chunksOfBlobs_cons (L : Layout) (id : BitVec 6) (blob : List Byte) (blobs : List (List Byte)) :
    chunksOfBlobs L id (blob :: blobs) =
      chunksFrom L id blob 0 (chunkCount L blob.length) ++
        chunksOfBlobs L (id + BitVec.ofNat 6 (chunkCount L blob.length)) blobs := by
  rw [chunksOfBlobs, chunksFrom, List.range_eq_range']

/-- One ENC.BLOB for each sub-binary appends the chunks of all of them. -/
theorem runsTo_encBlobs {blobs : List (List Byte)} (s : State) (hsize : ∀ blob ∈ blobs, blob.length < 2 ^ 32) :
    ∃ id c, RunsTo (blobs.map fun blob => issueInstr (.encBlob blob)) s
      { s with txId := id, sink := s.sink ++ chunksOfBlobs s.layout s.txId blobs, completion := c } := by
  induction blobs generalizing s with
  | nil => exact ⟨s.txId, s.completion, by simpa [chunksOfBlobs] using RunsTo.refl s⟩
  | cons blob blobs ih =>
    obtain ⟨hblob, hblobs⟩ := List.forall_mem_cons.mp hsize
    set n := chunkCount s.layout blob.length
    set t : State := { s with
      txId := s.txId + BitVec.ofNat 6 n
      sink := s.sink ++ chunksFrom s.layout s.txId blob 0 n
      completion := some { code := .ok, value := .chunks n } }
    have hfirst : RunsTo [issueInstr (.encBlob blob)] s t :=
      .issue (decide_eq_true hblob) fun rest => execEncBlob_eq { s with script := rest } hblob
    obtain ⟨id, c, hrest⟩ := ih t hblobs
    refine ⟨id, c, ?_⟩
    rw [chunksOfBlobs_cons, ← List.append_assoc]
    exact hfirst.append hrest

/-- The whole script: the descriptors, then the chunks with message ids from MSGID_RESET. -/
theorem runsTo_senderScript (P : HostParams) {blobs : List (List Byte)} (s : State)
    (hsize : ∀ blob ∈ blobs, blob.length < 2 ^ 32) :
    ∃ id c, RunsTo (senderScript P blobs) s { s with
      txId := id
      sink := s.sink ++ (buildDescriptors P blobs).1.encode P.reservedFill ++
        ((buildDescriptors P blobs).2.map fun d => d.encode P.reservedFill).flatten ++
        chunksOfBlobs s.layout s.config.msgIdReset blobs
      completion := c } := by
  set m := (buildDescriptors P blobs).1.encode P.reservedFill
  set subs := ((buildDescriptors P blobs).2.map fun d => d.encode P.reservedFill).flatten
  set t := (s.setTxId s.config.msgIdReset).succeed .none
  obtain ⟨c, hsums⟩ := runsTo_crcSpans blobs s
  have hinit : RunsTo [issueInstr .encInit] { s with completion := c } t := .issue rfl fun _ => rfl
  have hmain : RunsTo [.appendSink m] t (t.appendSink m) := .appendSink m t
  have hsubs := runsTo_subDescriptors P.reservedFill (buildDescriptors P blobs).2 (t.appendSink m)
  obtain ⟨id, c', hchunks⟩ := runsTo_encBlobs ((t.appendSink m).appendSink subs) hsize
  exact ⟨id, c', ((hsums.append (hinit.append hmain)).append hsubs).append hchunks⟩

/-! ## The length of the stream (R198) -/

theorem flatten_encode_length (fill : Byte) (subs : List SubDescriptor) :
    (subs.map fun d => d.encode fill).flatten.length = subDescriptorSize * subs.length := by
  induction subs with
  | nil => rfl
  | cons d subs ih =>
    rw [List.map_cons, List.flatten_cons, List.length_append, ih, SubDescriptor.encode_length, List.length_cons]
    ring

theorem chunksOfBlobs_length (p : Profile) (id : BitVec 6) (blobs : List (List Byte)) :
    (chunksOfBlobs p.layout id blobs).length =
      1024 * (blobs.map fun blob => chunkCount p.layout blob.length).sum := by
  induction blobs generalizing id with
  | nil => rfl
  | cons blob blobs ih =>
    rw [chunksOfBlobs_cons, List.length_append, chunksFrom_length, ih, List.map_cons, List.sum_cons]
    ring

/-- Settles O54: the run of the script (`runsTo_senderScript`), and the lengths of what it appends. -/
theorem senderEmitsTheStream : Obligations.SenderEmitsTheStream := by
  intro P blobs s hend
  obtain ⟨id, c, hrun⟩ := runsTo_senderScript P s fun _ => length_lt_of_transferEnd_lt hend
  have hrun := hrun []
  rw [List.append_nil] at hrun
  refine ⟨_, hrun, rfl, rfl, ?length⟩
  case length =>
    have hcount : (buildDescriptors P blobs).2.length = blobs.length := buildSubs_length ..
    simp only [List.length_append, MainDescriptor.encode_length, flatten_encode_length, hcount]
    rw [layout_eq, chunksOfBlobs_length, mainDescriptorSize, subDescriptorSize]
    ring

end Sys2Proof.Machine
end

section
/-! PROOFS. The receiving host (spec/44_host_protocol.md R205 to R210): what it does with the descriptors, each pass of
its receive loop, and when its verifier reports success. -/

namespace Sys2Proof.Machine

/-! ## The descriptors it reads (R196, R205) -/

theorem receiveTransfer_of_lt (P : HostParams) {s : State} (h : s.src.length < 16) :
    receiveTransfer P s = (HostResult.truncatedInput.early, s) := if_pos h

/-- The count that the host reads. -/
theorem decode_subCount (s : State) :
    (MainDescriptor.decode (s.headSrc mainDescriptorSize)).subCount.toNat = memRead s.src 4 4 := by
  calc
    _ = memRead (s.src.take 16) 4 4 % 2 ^ 32 := BitVec.toNat_ofNat ..
    _ = memRead s.src 4 4 := by
      rw [memRead_take (by norm_num)]
      exact Nat.mod_eq_of_lt (memRead_lt s.src 4 4)

/-- Past the MainDescriptor: the count against MAX_SUB_COUNT, then against what SRC holds, then the transfer. -/
theorem receiveTransfer_of_le (P : HostParams) {s : State} (h : 16 ≤ s.src.length) :
    receiveTransfer P s =
      if P.maxSubCount < memRead s.src 4 4 then (HostResult.tooManySubBinaries.early, s.dropSrc 16)
      else if s.src.length < 16 + 64 * memRead s.src 4 4 then (HostResult.truncatedInput.early, s.dropSrc 16)
      else
        receiveAndVerify P (decodeSubs (memRead s.src 4 4) (slice s.src 16 (64 * memRead s.src 4 4)))
          ((s.dropSrc 16).dropSrc (64 * memRead s.src 4 4)) := by
  have hlong : ¬s.availSrc < mainDescriptorSize := Nat.not_lt.mpr h
  have hshort : (s.dropSrc 16).availSrc < 64 * memRead s.src 4 4 ↔ s.src.length < 16 + 64 * memRead s.src 4 4 := by
    rw [State.availSrc, State.dropSrc_src, List.length_drop]
    omega
  rw [receiveTransfer, if_neg hlong]
  simp only [decode_subCount]
  exact if_congr Iff.rfl rfl (if_congr hshort rfl rfl)

/-- Settles O55: the three ways a transfer ends before the receive loop. -/
theorem receiverChecksTheCount : Obligations.ReceiverChecksTheCount := by
  intro P s
  refine ⟨receiveTransfer_of_lt P, fun hlen hmany => ?tooMany, fun hlen hcount hshort => ?tooShort⟩
  case tooMany => rw [receiveTransfer_of_le P hlen, if_pos hmany]; rfl
  case tooShort => rw [receiveTransfer_of_le P hlen, if_neg (Nat.not_lt.mpr hcount), if_pos hshort]; rfl

/-! ## One pass of the receive loop (R205, R206) -/

/-- VAL.CHUNK always completes. -/
theorem exists_execValChunk_next (s : State) : ∃ t, execValChunk s = .next t := by
  rw [execValChunk]
  split_ifs <;> exact ⟨_, rfl⟩

theorem runOp_of_exec {i : Instr} {s t : State} (h : exec i s = .next t) : runOp i s = t := by rw [runOp, h]

section
variable (P : HostParams) {pads target : Nat} {s t : State} (fuel : Nat)

/-- A rejected chunk: the policy decides. -/
theorem receiveLoop_reject {c : ResultCode} (hlt : s.rxCount.toNat + pads < target) (hx : execValChunk s = .next t)
    (hc : lastCode t = c) (hrejected : c = .badMarker ∨ c = .badLength ∨ c = .checksumMismatch) :
    receiveLoop P pads target (fuel + 1) s =
      if P.errorPolicy = .abort then (some (.chunkError c), t) else receiveLoop P pads target fuel t := by
  have hrun : runOp .valChunk s = t := runOp_of_exec hx
  rw [receiveLoop, if_pos hlt]
  simp only [hrun, hc]
  rcases hrejected with rfl | rfl | rfl <;> cases P.errorPolicy <;> rfl

/-- A VAL.CHUNK that takes no chunk ends the loop. -/
theorem receiveLoop_stop (hlt : s.rxCount.toNat + pads < target) (hx : execValChunk s = .next t)
    (hc : lastCode t = .halted ∨ lastCode t = .truncatedInput) :
    receiveLoop P pads target (fuel + 1) s = (some .truncatedInput, t) := by
  have hrun : runOp .valChunk s = t := runOp_of_exec hx
  rw [receiveLoop, if_pos hlt]
  rcases hc with hc | hc <;> simp only [hrun, hc]

end

/-- One pass of the loop ends it, or takes bytes of SRC and goes on. -/
theorem receiveLoop_pass (P : HostParams) (pads target : Nat) (s : State) :
    (∃ r, ∀ fuel, receiveLoop P pads target (fuel + 1) s = r) ∨
    (∃ t, t.src.length < s.src.length ∧
      ∀ fuel, receiveLoop P pads target (fuel + 1) s = receiveLoop P pads target fuel t) := by
  by_cases hlt : s.rxCount.toNat + pads < target
  · obtain ⟨t, hx⟩ := exists_execValChunk_next s
    have taken (hl : 1024 ≤ s.src.length) : (s.src.drop 1024).length < s.src.length := by
      rw [List.length_drop]
      omega
    rcases execValChunk_cases hx with ⟨-, rfl⟩ | ⟨-, -, rfl⟩ | ⟨-, hl, ⟨c, hc, rfl⟩ | ⟨-, -, -, rfl⟩⟩
    · exact .inl ⟨_, fun fuel => receiveLoop_stop P fuel hlt hx (.inl rfl)⟩
    · exact .inl ⟨_, fun fuel => receiveLoop_stop P fuel hlt hx (.inr rfl)⟩
    · have hpass := fun fuel => receiveLoop_reject P fuel hlt hx rfl hc
      by_cases habort : P.errorPolicy = .abort
      · exact .inl ⟨_, fun fuel => by rw [hpass, if_pos habort]⟩
      · exact .inr ⟨_, taken hl, fun fuel => by rw [hpass, if_neg habort]⟩
    · exact .inr ⟨_, taken hl, fun fuel => receiveLoop_accept P hlt hx rfl⟩
  · exact .inl ⟨_, fun fuel => receiveLoop_done P (Nat.not_lt.mp hlt) (Nat.succ_pos fuel)⟩

/-- Settles O59, by induction on one of the amounts: each pass ends the loop or leaves less in SRC. -/
theorem receiveLoopFuelSuffices : Obligations.ReceiveLoopFuelSuffices := by
  intro P pads target f g s hf hg
  induction f generalizing g s with
  | zero => omega
  | succ f ih =>
    obtain ⟨g, rfl⟩ : ∃ g', g = g' + 1 := ⟨g - 1, by omega⟩
    rcases receiveLoop_pass P pads target s with ⟨r, hends⟩ | ⟨t, hless, hgoes⟩
    · rw [hends, hends]
    · rw [hgoes, hgoes]
      exact ih g t (by omega) (by omega)

/-- A VAL.CHUNK that ends in anything but Ok leaves RX_COUNT. -/
theorem execValChunk_keeps_rxCount {s t : State} {c : Completion} (hx : execValChunk s = .next t)
    (hc : t.completion = some c) (hcode : c.code ≠ .ok) : t.rxCount = s.rxCount := by
  rcases execValChunk_cases hx with ⟨-, rfl⟩ | ⟨-, -, rfl⟩ | ⟨-, -, ⟨_, -, rfl⟩ | ⟨-, -, -, rfl⟩⟩
  · rfl
  · rfl
  · rfl
  · rw [State.acceptFrame_completion] at hc
    cases hc
    exact absurd rfl hcode

/-- Settles O56: `receiveLoop_reject` under each policy. -/
theorem receiveLoopFollowsThePolicy : Obligations.ReceiveLoopFollowsThePolicy := by
  intro P pads target fuel s t c hlt hx hc hrejected
  have hpass := receiveLoop_reject P fuel hlt hx (by rw [lastCode, hc]) hrejected
  refine ⟨?count, fun habort => ?underAbort, fun hcontinue => ?underContinue⟩
  case count => exact execValChunk_keeps_rxCount hx hc (by rcases hrejected with rfl | rfl | rfl <;> simp)
  case underAbort => rw [hpass, if_pos habort]
  case underContinue => rw [hpass, if_neg (by simp [hcontinue])]

/-! ## The verifier (R207, R208) -/

/-- The bytes of a SubDescriptor's sub-binary are within the copy, which begins at position `base` of the logical
stream, and have the descriptor's checksum. -/
def Matches (base : Nat) (copy : List Byte) (d : SubDescriptor) : Prop :=
  base ≤ d.startOffset.toNat ∧ d.endOffset - base ≤ copy.length ∧
    crc32z (slice copy (d.startOffset.toNat - base) d.size.toNat) = d.checksum

theorem verifyFrom_cons_eq_success_iff {base index : Nat} {copy : List Byte} {d : SubDescriptor}
    {subs : List SubDescriptor} :
    verifyFrom base copy index (d :: subs) = .success ↔
      Matches base copy d ∧ verifyFrom base copy (index + 1) subs = .success := by
  rw [verifyFrom, Matches, ← and_assoc (a := base ≤ _)]
  split_ifs with hinside hsum
  · simp [hinside, hsum]
  · simp [hsum]
  · exact iff_of_false (by simp) fun ⟨⟨hin, _⟩, _⟩ => hinside hin

theorem verifyFrom_eq_success_iff {base index : Nat} {copy : List Byte} {subs : List SubDescriptor} :
    verifyFrom base copy index subs = .success ↔ ∀ d ∈ subs, Matches base copy d := by
  induction subs generalizing index with
  | nil => simp [verifyFrom]
  | cons d subs ih => rw [verifyFrom_cons_eq_success_iff, ih, List.forall_mem_cons]

/-- Settles O58: the verifier stops at the first descriptor that does not match. -/
theorem verifierSucceedsIffAllMatch : Obligations.VerifierSucceedsIffAllMatch := fun _ _ => verifyFrom_eq_success_iff

end Sys2Proof.Machine
end

section
/-! PROOFS. A transfer from end to end (spec/44_host_protocol.md R205 to R211): the receiving host takes every chunk the
sending host emitted, and its copy of the stream is what the descriptors describe. -/

namespace Sys2Proof.Machine

/-! ## The descriptors at the front of the stream -/

theorem decodeSubs_flatten_encode (fill : Byte) (subs : List SubDescriptor) :
    decodeSubs subs.length (subs.map fun d => d.encode fill).flatten = subs := by
  induction subs with
  | nil => rfl
  | cons d subs ih =>
    rw [List.length_cons, decodeSubs, List.map_cons, List.flatten_cons, List.take_left' (d.encode_length fill),
      List.drop_left' (d.encode_length fill), SubDescriptor.decode_encode, ih]

theorem receiveTransfer_stream (P : HostParams) {fill : Byte} {m : MainDescriptor} {subs : List SubDescriptor}
    {rest : List Byte} {s : State}
    (hsrc : s.src = m.encode fill ++ ((subs.map fun d => d.encode fill).flatten ++ rest))
    (hcount : m.subCount.toNat = subs.length) (hmax : subs.length ≤ P.maxSubCount) :
    receiveTransfer P s =
      receiveAndVerify P subs { s with src := rest, srcPos := s.srcPos + 16 + 64 * subs.length } := by
  have hmain : (m.encode fill).length = 16 := m.encode_length fill
  have hsubs : (subs.map fun d => d.encode fill).flatten.length = 64 * subs.length := flatten_encode_length fill subs
  have hlen : s.src.length = 16 + 64 * subs.length + rest.length := by
    rw [hsrc, List.length_append, List.length_append, hmain, hsubs, Nat.add_assoc]
  have hread : memRead s.src 4 4 = subs.length := by
    rw [hsrc, MainDescriptor.encode, List.append_assoc, List.append_assoc,
      memRead_append_exact _ _ _ (writeWord_length _) (writeWord_length _), unle_writeWord, hcount]
  have hslice : slice s.src 16 (64 * subs.length) = (subs.map fun d => d.encode fill).flatten := by
    rw [hsrc, ← hmain, ← hsubs]
    exact slice_append_exact ..
  have hdrop : s.src.drop (16 + 64 * subs.length) = rest := by
    rw [hsrc, ← List.append_assoc]
    exact List.drop_left' (by rw [List.length_append, hmain, hsubs])
  rw [receiveTransfer_of_le P (by omega), hread, if_neg (by omega), if_neg (by omega), hslice,
    decodeSubs_flatten_encode, State.dropSrc, State.dropSrc, List.drop_drop, hdrop]

/-! ## The receive loop over chunks that are accepted -/

theorem HasReceived.toNat_rxCount {bytes : List Byte} {s t : State} (h : HasReceived bytes s t)
    (hlt : s.rxCount.toNat + bytes.length < 2 ^ 32) : t.rxCount.toNat = s.rxCount.toNat + bytes.length := by
  obtain ⟨-, hcount, -⟩ := h
  rw [hcount, BitVec.toNat_add, BitVec.toNat_ofNat]
  omega

theorem HasReceived.rxHalt_eq {bytes : List Byte} {s t : State} : HasReceived bytes s t → t.rxHalt = s.rxHalt :=
  fun ⟨_, _, h, _⟩ => h

theorem HasReceived.profile_eq {bytes : List Byte} {s t : State} :
    HasReceived bytes s t → t.config.profile = s.config.profile :=
  fun ⟨_, _, _, _, _, _, h⟩ => congrArg Config.profile h

/-- The receive loop comes from `s` to `t` by accepting chunks with the contents `bytes`, and takes at least one byte of
SRC a pass. -/
def LoopReceives (P : HostParams) (pads target : Nat) (bytes : List Byte) (s t : State) : Prop :=
  HasReceived bytes s t ∧ ∃ n, t.src.length + n ≤ s.src.length ∧
    ∀ fuel, receiveLoop P pads target (fuel + n) s = receiveLoop P pads target fuel t

section
variable {P : HostParams} {pads target : Nat}

theorem LoopReceives.refl (s : State) : LoopReceives P pads target [] s s :=
  ⟨.refl s, 0, le_rfl, fun _ => rfl⟩

theorem LoopReceives.trans {xs ys : List Byte} {s t u : State} (hst : LoopReceives P pads target xs s t)
    (htu : LoopReceives P pads target ys t u) : LoopReceives P pads target (xs ++ ys) s u := by
  obtain ⟨hrec, m, hm, hloop⟩ := hst
  obtain ⟨hrec', n, hn, hloop'⟩ := htu
  exact ⟨hrec.trans hrec', n + m, by omega, fun fuel => by rw [← Nat.add_assoc, hloop, hloop']⟩

/-- The loop ends at its target, its fuel not used up. -/
theorem LoopReceives.receiveLoop_eq {bytes : List Byte} {s t : State} (h : LoopReceives P pads target bytes s t)
    (hdone : target ≤ t.rxCount.toNat + pads) : receiveLoop P pads target (receiveFuel s) s = (none, t) := by
  obtain ⟨-, n, hn, hloop⟩ := h
  have hfuel : receiveFuel s = s.src.length + 1 - n + n := by
    rw [receiveFuel, State.availSrc]
    omega
  rw [hfuel, hloop]
  exact receiveLoop_done P hdone (by omega)

/-- The last `m` chunks of a sub-binary, from chunk `k`. -/
theorem loopReceives_chunksFrom {p : Profile} {id : BitVec 6} {blob rest : List Byte} {m k : Nat} {s : State}
    (hp : s.config.profile = p) (hh : s.rxHalt = 0) (hsrc : s.src = chunksFrom p.layout id blob k m ++ rest)
    (hm : k + m = chunkCount p.layout blob.length)
    (htarget : s.rxCount.toNat + pads + (blob.drop (k * p.layout.contentCap)).length ≤ target)
    (hwrap : s.rxCount.toNat + (blob.drop (k * p.layout.contentCap)).length < 2 ^ 32) :
    ∃ t, LoopReceives P pads target (blob.drop (k * p.layout.contentCap)) s t ∧ t.src = rest := by
  induction m generalizing k s with
  | zero =>
    have hend : blob.length ≤ k * p.layout.contentCap := Nat.not_lt.mp ((lt_chunkCount_iff ..).not.mp (by omega))
    rw [List.drop_eq_nil_of_le hend]
    exact ⟨s, .refl s, hsrc⟩
  | succ m ih =>
    have hk : k * p.layout.contentCap < blob.length := (lt_chunkCount_iff ..).mp (by omega)
    have hsplit : blob.drop (k * p.layout.contentCap) =
        chunkContent p.layout blob k ++ blob.drop ((k + 1) * p.layout.contentCap) := by
      rw [Nat.succ_mul, ← List.drop_drop, chunkContent, slice, List.take_append_drop]
    have hlen := congrArg List.length hsplit
    rw [List.length_append] at hlen
    rw [chunksFrom_succ, List.append_assoc] at hsrc
    obtain ⟨t, hexec, hrec, htsrc, -, v, hv⟩ := execValChunk_chunkOfBlob hp hh hsrc
    have hcount := hrec.toNat_rxCount (by omega)
    have hpass : LoopReceives P pads target (chunkContent p.layout blob k) s t := by
      refine ⟨hrec, 1, ?_, fun fuel => receiveLoop_accept P ?_ hexec hv⟩
      · rw [hsrc, htsrc, List.length_append (as := chunkOfBlob ..), chunkOfBlob, chunkBytes_length]
        · omega
        · exact (chunkContent_length ..).trans_le (min_le_left ..)
      · rw [List.length_drop] at htarget
        omega
    obtain ⟨u, hrest, husrc⟩ := ih (hrec.profile_eq.trans hp) (hrec.rxHalt_eq.trans hh) htsrc (by omega) (by omega)
      (by omega)
    exact ⟨u, hsplit ▸ hpass.trans hrest, husrc⟩

/-- All chunks of one sub-binary. -/
theorem loopReceives_blob {p : Profile} {id : BitVec 6} {blob rest : List Byte} {s : State}
    (hp : s.config.profile = p) (hh : s.rxHalt = 0)
    (hsrc : s.src = chunksFrom p.layout id blob 0 (chunkCount p.layout blob.length) ++ rest)
    (htarget : s.rxCount.toNat + pads + blob.length ≤ target) (hwrap : s.rxCount.toNat + blob.length < 2 ^ 32) :
    ∃ t, LoopReceives P pads target blob s t ∧ t.src = rest := by
  have h := loopReceives_chunksFrom (P := P) (pads := pads) (target := target) hp hh hsrc (Nat.zero_add _)
  rw [Nat.zero_mul, List.drop_zero] at h
  exact h htarget hwrap

/-- The chunks of all sub-binaries, under one target. -/
theorem loopReceives_blobs {p : Profile} {id : BitVec 6} {blobs : List (List Byte)} {s : State}
    (hp : s.config.profile = p) (hh : s.rxHalt = 0) (hsrc : s.src = chunksOfBlobs p.layout id blobs)
    (htarget : s.rxCount.toNat + pads + blobs.flatten.length ≤ target)
    (hwrap : s.rxCount.toNat + blobs.flatten.length < 2 ^ 32) :
    ∃ t, LoopReceives P pads target blobs.flatten s t ∧ t.src = [] := by
  induction blobs generalizing id s with
  | nil => exact ⟨s, .refl s, hsrc⟩
  | cons blob blobs ih =>
    rw [List.flatten_cons, List.length_append] at htarget hwrap
    rw [chunksOfBlobs_cons] at hsrc
    obtain ⟨t, hblob, htsrc⟩ := loopReceives_blob (P := P) (pads := pads) (target := target) hp hh hsrc (by omega)
      (by omega)
    have ⟨hrec, _⟩ := hblob
    have hcount := hrec.toNat_rxCount (by omega)
    obtain ⟨u, hblobs, husrc⟩ := ih (hrec.profile_eq.trans hp) (hrec.rxHalt_eq.trans hh) htsrc (by omega) (by omega)
    exact ⟨u, hblob.trans hblobs, husrc⟩

end

/-! ## The logical stream (R207, R209) -/

/-- The logical stream past the descriptors: each sub-binary, and zeros up to the next multiple of 4. -/
def logicalStream (blobs : List (List Byte)) : List Byte :=
  (blobs.map fun blob => blob ++ zeros (align4 blob.length - blob.length)).flatten

theorem logicalStream_cons (blob : List Byte) (blobs : List (List Byte)) :
    logicalStream (blob :: blobs) = blob ++ zeros (align4 blob.length - blob.length) ++ logicalStream blobs := rfl

theorem logicalStream_eq_flatten {blobs : List (List Byte)} (h : ∀ blob ∈ blobs, blob.length % 4 = 0) :
    logicalStream blobs = blobs.flatten := by
  rw [logicalStream, List.map_congr_left (g := id), List.map_id]
  intro blob hblob
  rw [align4_eq_self (h blob hblob), Nat.sub_self, zeros_zero, List.append_nil]
  rfl

theorem logicalStream_length (blobs : List (List Byte)) :
    (logicalStream blobs).length = startOf blobs blobs.length := by
  induction blobs with
  | nil => rfl
  | cons blob blobs ih =>
    have hle := le_align4 blob.length
    rw [logicalStream_cons, List.length_append, List.length_append, zeros_length, ih, List.length_cons,
      startOf_cons_succ]
    omega

/-- Sub-binary `k` stands in the logical stream at `startOf blobs k`. -/
theorem logicalStream_split {blobs : List (List Byte)} {k : Nat} {blob : List Byte} (h : blobs[k]? = some blob) :
    ∃ A C, logicalStream blobs = A ++ (blob ++ C) ∧ A.length = startOf blobs k := by
  induction blobs generalizing k with
  | nil => simp at h
  | cons b blobs ih =>
    rw [logicalStream_cons]
    cases k with
    | zero =>
      obtain rfl : b = blob := by simpa using h
      exact ⟨[], _, List.append_assoc .., rfl⟩
    | succ k =>
      rw [List.getElem?_cons_succ] at h
      obtain ⟨A, C, hstream, hA⟩ := ih h
      have hle := le_align4 b.length
      refine ⟨b ++ zeros (align4 b.length - b.length) ++ A, C, by simp [hstream], ?_⟩
      rw [List.length_append, List.length_append, zeros_length, hA, startOf_cons_succ]
      omega

/-- The verifier finds in the logical stream what the Header Builder described. -/
theorem verifyAll_logicalStream {P : HostParams} {blobs : List (List Byte)} (hend : transferEnd blobs < 2 ^ 32) :
    verifyAll (logicalStream blobs) (buildDescriptors P blobs).2 = .success := by
  have hn : (buildDescriptors P blobs).2.length = blobs.length := buildSubs_length ..
  rw [verifyAll, verifyFrom_eq_success_iff, hn]
  intro d hd
  obtain ⟨k, hk⟩ := List.mem_iff_getElem?.mp hd
  obtain ⟨blob, hblob, -, hstart, hsize, hsum⟩ := getElem?_buildDescriptors hend hk
  obtain ⟨A, C, hstream, hA⟩ := logicalStream_split hblob
  have hslice : slice (logicalStream blobs) (startOf blobs k) blob.length = blob := by
    rw [hstream, ← hA, slice_append_exact]
  have hlen : (logicalStream blobs).length = startOf blobs k + (blob.length + C.length) := by
    rw [hstream, List.length_append, List.length_append, hA]
  refine ⟨by omega, ?inside, ?checksum⟩
  case inside =>
    rw [SubDescriptor.endOffset]
    omega
  case checksum => rw [hstart, hsize, Nat.add_sub_cancel_left, hslice, hsum]

/-! ## The receive loop under each pad policy -/

theorem describe_endOffset {P : HostParams} {i cur : Nat} {blob : List Byte} (h : cur + blob.length < 2 ^ 32) :
    (describe P i cur blob).endOffset = cur + blob.length := by
  rw [SubDescriptor.endOffset, describe_startOffset (by omega), describe_size (by omega)]

/-- With no pad bytes and aligned sizes, the last end offset is where the last chunk ends. -/
theorem getLast?_buildDescriptors {P : HostParams} {blobs : List (List Byte)} (hne : blobs ≠ [])
    (hend : transferEnd blobs < 2 ^ 32) (halign : ∀ blob ∈ blobs, blob.length % 4 = 0) :
    ∃ d, (buildDescriptors P blobs).2.getLast? = some d ∧
      d.endOffset = descriptorBytes blobs.length + blobs.flatten.length ∧ d.endOffset < 2 ^ 32 := by
  have hn : (buildDescriptors P blobs).2.length = blobs.length := buildSubs_length ..
  have hpos : 0 < blobs.length := List.length_pos_iff.mpr hne
  have hlast : (buildDescriptors P blobs).2[blobs.length - 1]? = some _ :=
    List.getElem?_eq_getElem (by omega)
  obtain ⟨blob, hblob, -, hstart, hsize, -⟩ := getElem?_buildDescriptors hend hlast
  have hle := startOf_add_length_le_endFrom (descriptorBytes blobs.length) hblob
  have hstream := logicalStream_length blobs
  rw [← Nat.sub_add_cancel hpos, startOf_succ hblob, logicalStream_eq_flatten halign,
    align4_eq_self (halign blob (List.mem_of_getElem? hblob))] at hstream
  rw [transferEnd] at hend
  refine ⟨_, by rw [List.getLast?_eq_getElem?, hn, hlast], ?_, ?_⟩
  all_goals rw [SubDescriptor.endOffset]; omega

/-- Under receiver_inserts_zeros: one loop per sub-binary, whose count and pad bytes make up its start. -/
theorem receivePadded_buildSubs (P : HostParams) {p : Profile} {id : BitVec 6} {blobs : List (List Byte)}
    {i cur pads : Nat} (copy : List Byte) {s : State} (hp : s.config.profile = p) (hh : s.rxHalt = 0)
    (hsrc : s.src = chunksOfBlobs p.layout id blobs) (hcur : s.rxCount.toNat + pads = cur)
    (hend : blobs ≠ [] → endFrom cur blobs < 2 ^ 32) :
    ∃ t, receivePadded P (buildSubs P i cur blobs) pads copy s = (none, t, copy ++ logicalStream blobs) ∧
      HasReceived blobs.flatten s t ∧ t.src = [] := by
  induction blobs generalizing id i cur pads copy s with
  | nil => exact ⟨s, by simp [buildSubs, receivePadded, logicalStream], .refl s, hsrc⟩
  | cons blob blobs ih =>
    obtain ⟨hfirst, hrest⟩ := endFrom_cons_lt (hend (List.cons_ne_nil _ _))
    rw [chunksOfBlobs_cons] at hsrc
    obtain ⟨t, hblob, htsrc⟩ := loopReceives_blob (P := P) (pads := pads) (target := cur + blob.length) hp hh hsrc
      (by omega) (by omega)
    have ⟨hrec, _⟩ := hblob
    have ⟨hrbuf, _⟩ := hrec
    have hcount := hrec.toNat_rxCount (by omega)
    have hle := le_align4 blob.length
    obtain ⟨u, hpadded, hrec', husrc⟩ := ih (i := i + 1) (cur := cur + align4 blob.length)
      (pads := pads + (align4 blob.length - blob.length))
      (copy ++ blob ++ zeros (align4 blob.length - blob.length)) (hrec.profile_eq.trans hp)
      (hrec.rxHalt_eq.trans hh) htsrc (by omega) fun hne => (hrest hne).2
    refine ⟨u, ?_, hrec.trans hrec', husrc⟩
    rw [buildSubs_cons, receivePadded, describe_endOffset hfirst, describe_size (by omega),
      hblob.receiveLoop_eq (by omega)]
    simp only [hrbuf, List.drop_left, hpadded]
    rw [logicalStream_cons, List.append_assoc, List.append_assoc, List.append_assoc]

/-- Under either policy the host receives every sub-binary, and its copy is the logical stream. -/
theorem receiveChunks_chunksOfBlobs {P : HostParams} {p : Profile} {id : BitVec 6} {blobs : List (List Byte)}
    {s : State} (hne : blobs ≠ []) (hend : transferEnd blobs < 2 ^ 32)
    (hpad : P.padPolicy = .none → ∀ blob ∈ blobs, blob.length % 4 = 0) (hp : s.config.profile = p)
    (hh : s.rxHalt = 0) (hsrc : s.src = chunksOfBlobs p.layout id blobs) (hrbuf : s.rbuf = [])
    (hcount : s.rxCount.toNat = descriptorBytes blobs.length) :
    ∃ t, receiveChunks P (buildDescriptors P blobs).2 s = (none, t, logicalStream blobs) ∧
      HasReceived blobs.flatten s t ∧ t.src = [] := by
  cases hpolicy : P.padPolicy with
  | none =>
    have halign := hpad hpolicy
    obtain ⟨d, hlast, hdend, hlt⟩ := getLast?_buildDescriptors (P := P) hne hend halign
    obtain ⟨t, hloop, htsrc⟩ := loopReceives_blobs (P := P) (pads := 0) (target := d.endOffset) hp hh hsrc (by omega)
      (by omega)
    have ⟨hrec, _⟩ := hloop
    have ⟨htrbuf, _⟩ := hrec
    have htcount := hrec.toNat_rxCount (by omega)
    refine ⟨t, ?_, hrec, htsrc⟩
    rw [receiveChunks, hpolicy]
    simp only [hlast, hloop.receiveLoop_eq (by omega), htrbuf, hrbuf, List.nil_append,
      logicalStream_eq_flatten halign]
  | receiverInsertsZeros =>
    have hloops : receiveChunks P (buildDescriptors P blobs).2 s =
        receivePadded P (buildDescriptors P blobs).2 0 [] s := by rw [receiveChunks, hpolicy, hrbuf]
    rw [hloops]
    exact receivePadded_buildSubs P [] hp hh hsrc hcount fun _ => hend

/-! ## The transfer (R211) -/

/-- Past the descriptors: every chunk is received, no error shows, and every checksum matches. -/
theorem receiveAndVerify_chunksOfBlobs {P : HostParams} {id : BitVec 6} {blobs : List (List Byte)} {s : State}
    (hne : blobs ≠ []) (hend : transferEnd blobs < 2 ^ 32)
    (hpad : P.padPolicy = .none → ∀ blob ∈ blobs, blob.length % 4 = 0)
    (hsrc : s.src = chunksOfBlobs s.layout id blobs) (hrbuf : s.rbuf = []) :
    ∃ u, receiveAndVerify P (buildDescriptors P blobs).2 s = ({ result := .success, sticky := some 0 }, u) ∧
      u.rbuf = blobs.flatten ∧ u.src = [] ∧ u.Clean := by
  have hn : (buildDescriptors P blobs).2.length = blobs.length := buildSubs_length ..
  have horigin : descriptorBytes blobs.length < 2 ^ 32 := (le_endFrom blobs _).trans_lt hend
  set v := (s.presetRx (BitVec.ofNat 32 (descriptorBytes blobs.length))).succeed .none with hv
  have hinit : runOp (.valInit (BitVec.ofNat 32 (descriptorBytes blobs.length))) s = v := rfl
  obtain ⟨u, hchunks, hrec, husrc⟩ := receiveChunks_chunksOfBlobs (s := v) hne hend hpad rfl rfl hsrc hrbuf
    (Nat.mod_eq_of_lt horigin)
  obtain ⟨hurbuf, -, -, hsticky, -⟩ := hrec
  have hclean : u.rxSticky = 0 := hsticky
  refine ⟨u, ?_, hurbuf.trans (by rw [hv]; simp [hrbuf]), husrc, hclean⟩
  rw [receiveAndVerify, hn, hinit, hchunks]
  simp only [verifyAll_logicalStream hend, hclean]

/-- Settles O60: the stream is what the sender's script leaves on SINK (O54); the receiving host reads the descriptors
back (`receiveTransfer_stream`) and receives and verifies the rest. -/
theorem endToEndTransferSucceeds : Obligations.EndToEndTransferSucceeds := by
  intro P blobs s t r hne hend hmax hpad hsink hrun hprofile hsrc hrbuf
  obtain ⟨t', hrun', -, hstream, -⟩ := senderEmitsTheStream P blobs s hend
  cases hrun.symm.trans hrun'
  have hlayout : r.layout = s.layout := by rw [layout_eq, hprofile, layout_eq]
  have hn : (buildDescriptors P blobs).2.length = blobs.length := buildSubs_length ..
  have hcount : (buildDescriptors P blobs).1.subCount.toNat = (buildDescriptors P blobs).2.length := by
    have horigin := (le_endFrom blobs (descriptorBytes blobs.length)).trans_lt hend
    rw [descriptorBytes, mainDescriptorSize, subDescriptorSize] at horigin
    rw [hn]
    exact Nat.mod_eq_of_lt (by omega)
  rw [hstream, hsink, List.nil_append, List.append_assoc, ← hlayout] at hsrc
  rw [receiveTransfer_stream P hsrc hcount (hn.trans_le hmax)]
  exact receiveAndVerify_chunksOfBlobs hne hend hpad rfl hrbuf

end Sys2Proof.Machine
end

section
/-! PROOFS. The reset event (spec/70_reset_and_hazards.md R250, R251), and the receiving host's look at RX_STICKY before
it verifies (R258). -/

namespace Sys2Proof.Machine

/-! ## The reset event (R250, R251) -/

/-- Settles O2: the step is the reset event, with `rest` left of the script, and each field is what that event writes
or keeps. -/
theorem resetEventSetsRegistersKeepsStreams : Obligations.ResetEventSetsRegistersKeepsStreams := by
  intro s rest hs
  refine ⟨State.resetBlock { s with script := rest }, step_cons hs, ?_⟩
  simp

/-- Settles O3: ENC.INIT writes TX_ID (O18) and VAL.INIT the RX registers (O25), as the reset event does at once. -/
theorem resetIsBothInits : Obligations.ResetIsBothInits := fun s =>
  ⟨_, _, encInitLoadsMessageId s, valInitPresetsRx 0 _, rfl⟩

/-! ## Receiving, by what its end says of RX_STICKY (R206, R232) -/

/-- How receiving from `s` can end in `t`: early, with a result that is none of the verifier's, or with all bytes
received, and then, under `abort`, with RX_STICKY as it was. -/
def ReceiveEnd (P : HostParams) (s : State) : Option HostResult → State → Prop
  | some r, _ => r = .truncatedInput ∨ ∃ c, r = .chunkError c
  | none, t => P.errorPolicy = .abort → t.rxSticky = s.rxSticky

/-- Receiving may begin with a part that keeps RX_STICKY under `abort`. -/
theorem ReceiveEnd.trans {P : HostParams} {s t u : State} {r : Option HostResult}
    (hst : P.errorPolicy = .abort → t.rxSticky = s.rxSticky) (htu : ReceiveEnd P t r u) : ReceiveEnd P s r u := by
  cases r with
  | none => exact fun habort => (htu habort).trans (hst habort)
  | some r => exact htu

/-- One loop: an accepted chunk keeps RX_STICKY, and after a rejected one the loop goes on only under `continue`. -/
theorem receiveLoop_end (P : HostParams) (pads target fuel : Nat) (s : State) :
    ReceiveEnd P s (receiveLoop P pads target fuel s).1 (receiveLoop P pads target fuel s).2 := by
  induction fuel generalizing s with
  | zero => exact .inl rfl
  | succ fuel ih =>
    by_cases hlt : s.rxCount.toNat + pads < target
    · obtain ⟨t, hx⟩ := exists_execValChunk_next s
      rcases execValChunk_cases hx with ⟨-, rfl⟩ | ⟨-, -, rfl⟩ | ⟨-, -, ⟨c, hc, rfl⟩ | ⟨-, -, -, rfl⟩⟩
      · rw [receiveLoop_stop P fuel hlt hx (.inl rfl)]
        exact .inl rfl
      · rw [receiveLoop_stop P fuel hlt hx (.inr rfl)]
        exact .inl rfl
      · rw [receiveLoop_reject P fuel hlt hx rfl hc]
        split_ifs with habort
        · exact .inr ⟨c, rfl⟩
        · exact (ih _).trans fun h => absurd h habort
      · rw [receiveLoop_accept P hlt hx rfl]
        exact (ih _).trans fun _ => rfl
    · rw [receiveLoop_done P (Nat.not_lt.mp hlt) (Nat.succ_pos fuel)]
      exact fun _ => rfl

/-- One loop per sub-binary. -/
theorem receivePadded_end (P : HostParams) (subs : List SubDescriptor) (pads : Nat) (copy : List Byte) (s : State) :
    ReceiveEnd P s (receivePadded P subs pads copy s).1 (receivePadded P subs pads copy s).2.1 := by
  induction subs generalizing pads copy s with
  | nil => exact fun _ => rfl
  | cons d subs ih =>
    have hloop := receiveLoop_end P pads d.endOffset (receiveFuel s) s
    rw [receivePadded]
    generalize receiveLoop P pads d.endOffset (receiveFuel s) s = res at hloop ⊢
    obtain ⟨_ | r, t⟩ := res
    · exact (ih _ _ t).trans hloop
    · exact hloop

theorem receiveChunks_end (P : HostParams) (subs : List SubDescriptor) (s : State) :
    ReceiveEnd P s (receiveChunks P subs s).1 (receiveChunks P subs s).2.1 := by
  rw [receiveChunks]
  cases P.padPolicy with
  | none =>
    cases subs.getLast? with
    | none => exact fun _ => rfl
    | some d => exact receiveLoop_end P 0 d.endOffset (receiveFuel s) s
  | receiverInsertsZeros => exact receivePadded_end P subs 0 s.rbuf s

/-! ## The look at RX_STICKY (R258) -/

/-- Settles O57: a transfer that ends in the loop has none of the verifier's results; past the loop the host has looked,
and under `abort` RX_STICKY is still the 0 that VAL.INIT wrote. -/
theorem receiverLooksAtSticky : Obligations.ReceiverLooksAtSticky := by
  intro P subs s t r h
  obtain ⟨v, hinit, hclear⟩ :
      ∃ v, runOp (.valInit (BitVec.ofNat 32 (descriptorBytes subs.length))) s = v ∧ v.rxSticky = 0 := ⟨_, rfl, rfl⟩
  have hend := receiveChunks_end P subs v
  rw [receiveAndVerify, hinit] at h
  generalize receiveChunks P subs v = res at h hend
  obtain ⟨_ | early, u, copy⟩ := res
  · cases h
    refine ⟨fun _ => rfl, fun _ _ => rfl, fun bits hbits => ?_⟩
    cases hbits
    exact ⟨rfl, fun habort => (hend habort).trans hclear⟩
  · cases h
    rcases hend with rfl | ⟨c, rfl⟩ <;> simp [HostResult.early]

end Sys2Proof.Machine
end

section
/-! PROOFS. The result codes (spec/60_exceptions.md R220), what an operation that ends in an error has changed (R231),
and what RX_STICKY says of a sequence of requests (R232). -/

namespace Sys2Proof.Machine

/-! ## The numbers of the result codes (R220) -/

/-- Settles O42: the equations of `ResultCode.toBits`. -/
theorem resultCodeNumbers : Obligations.ResultCodeNumbers := ⟨rfl, rfl, rfl, rfl, rfl, rfl, rfl, rfl⟩

/-! ## How a request ends -/

/-- The errors that change nothing but the completion (R231). -/
def ResultCode.ChangesNothing (c : ResultCode) : Prop := c = .badRequest ∨ c = .halted ∨ c = .badOp

/-- The errors of a chunk that was taken from SRC and rejected (R163 to R165). -/
def ResultCode.RejectsChunk (c : ResultCode) : Prop := c = .badMarker ∨ c = .badLength ∨ c = .checksumMismatch

/-- The ways a request ends: Ok, an error that changes nothing, no whole chunk in SRC, or a chunk rejected. -/
def RequestEnd (s t : State) : Prop :=
  (∃ v, t.completion = some { code := .ok, value := v }) ∨
  (∃ c : ResultCode, c.ChangesNothing ∧ t = s.raise c) ∨
  t = s.halt.failRaise .truncatedInput ∨
  (1024 ≤ s.src.length ∧ ∃ c : ResultCode, c.RejectsChunk ∧ t = (s.dropSrc 1024).failRaise c)

theorem execValChunk_end {s t : State} (h : execValChunk s = .next t) : RequestEnd s t := by
  rcases execValChunk_cases h with ⟨-, rfl⟩ | ⟨-, -, rfl⟩ | ⟨-, hl, ⟨c, hc, rfl⟩ | ⟨-, -, -, rfl⟩⟩
  · exact .inr (.inl ⟨_, .inr (.inl rfl), rfl⟩)
  · exact .inr (.inr (.inl rfl))
  · exact .inr (.inr (.inr ⟨hl, c, hc, rfl⟩))
  · exact .inl ⟨_, rfl⟩

theorem execEncChunk_end (off : Word) (content : List Byte) (s : State) :
    ∃ t, execEncChunk off content s = .next t ∧ RequestEnd s t := by
  rcases execEncChunk_cases off content s with ⟨-, e⟩ | ⟨-, -, e⟩
  · exact ⟨_, e, .inr (.inl ⟨_, .inl rfl, rfl⟩)⟩
  · exact ⟨_, e, .inl ⟨_, rfl⟩⟩

/-- A request with operands that R101 admits is answered, and ends in one of these ways. -/
theorem exec_request_end {i : Instr} (s : State) (hi : i.isRequest = true) :
    ∃ t, exec i s = .next t ∧ RequestEnd s t := by
  cases i with
  | crcSpan span => exact ⟨_, rfl, .inl ⟨_, rfl⟩⟩
  | encInit => exact ⟨_, rfl, .inl ⟨_, rfl⟩⟩
  | encChunk off content => exact execEncChunk_end off content s
  | encBlob blob =>
    have hsize : blob.length < 2 ^ 32 := of_decide_eq_true hi
    exact ⟨_, execEncBlob_eq s hsize, .inl ⟨_, rfl⟩⟩
  | valInit count0 => exact ⟨_, rfl, .inl ⟨_, rfl⟩⟩
  | valChunk =>
    obtain ⟨t, hx⟩ := exists_execValChunk_next s
    exact ⟨t, hx, execValChunk_end hx⟩
  | reserved6 => exact ⟨_, rfl, .inr (.inl ⟨_, .inr (.inr rfl), rfl⟩)⟩
  | reserved7 => exact ⟨_, rfl, .inr (.inl ⟨_, .inr (.inr rfl), rfl⟩)⟩
  | chunkHeader id len => cases hi
  | chunkStart => cases hi
  | chunkEnd => cases hi

/-- Settles O45, by how the request ended: each clause of R231 is the update that end makes. -/
theorem errorsAreLocal : Obligations.ErrorsAreLocal := by
  intro i s t c hi h hc hcode
  obtain ⟨t', h', hend⟩ := exec_request_end s hi
  obtain rfl : t' = t := by simpa [h'] using h
  rcases hend with ⟨v, hok⟩ | ⟨k, hk, rfl⟩ | rfl | ⟨hl, k, hk, rfl⟩
  · rw [hok] at hc
    cases hc
    exact absurd rfl hcode
  · cases hc
    refine ⟨rfl, rfl, rfl, rfl, rfl, rfl, rfl, rfl, fun hother => ?_, fun hother => ?_, fun _ => rfl⟩ <;>
      rcases hk with rfl | rfl | rfl <;> simp at hother
  · cases hc
    exact ⟨rfl, rfl, rfl, rfl, rfl, rfl, rfl, rfl, by simp, fun _ => ⟨rfl, rfl, rfl, rfl⟩, by simp⟩
  · cases hc
    refine ⟨rfl, rfl, rfl, rfl, rfl, rfl, rfl, rfl, fun _ => ⟨rfl, hl, rfl, rfl, rfl⟩,
      fun hother => ?_, fun hother => ?_⟩ <;>
      rcases hk with rfl | rfl | rfl <;> simp at hother

/-! ## RX_STICKY over a sequence of requests (R232) -/

/-- A code from 1 to 4, the codes that have a sticky bit (R28). -/
def ResultCode.Sticks (c : ResultCode) : Prop := 1 ≤ c.toBits.toNat ∧ c.toBits.toNat ≤ 4

theorem ResultCode.RejectsChunk.sticks {c : ResultCode} (h : c.RejectsChunk) : c.Sticks := by
  rcases h with rfl | rfl | rfl <;> exact ⟨by decide, by decide⟩

theorem ResultCode.ChangesNothing.not_sticks {c : ResultCode} (h : c.ChangesNothing) : ¬c.Sticks := by
  rcases h with rfl | rfl | rfl <;> exact fun ⟨_, h4⟩ => absurd h4 (by decide)

theorem stickyWith_ne_zero (x : BitVec 5) {c : ResultCode} (h : c.Sticks) : stickyWith x c ≠ 0#5 := by
  intro hzero
  obtain ⟨-, h4⟩ := h
  have hbit := (stickyWith_bit x c c.toBits.toNat (by omega)).mpr (.inr rfl)
  simp [hzero] at hbit

/-- What ends in Ok, VAL.INIT apart, leaves RX_STICKY. -/
theorem exec_ok_sticky {i : Instr} {s t : State} {v : ResultValue} (h : exec i s = .next t)
    (hinit : ∀ count0, i ≠ .valInit count0) (hok : t.completion = some { code := .ok, value := v }) :
    t.rxSticky = s.rxSticky := by
  rcases exec_sameRx h with hsame | ⟨count0, hi⟩ | rfl
  · exact hsame.rxSticky_eq
  · exact absurd hi (hinit count0)
  · rcases execValChunk_cases h with ⟨-, rfl⟩ | ⟨-, -, rfl⟩ | ⟨-, -, ⟨c, hc, rfl⟩ | ⟨-, -, -, rfl⟩⟩
    · rfl
    · cases hok
    · cases hok; rcases hc with hc | hc | hc <;> cases hc
    · rfl

/-- RX_STICKY is 0 after a request, VAL.INIT apart, exactly when it was and the request's code has no sticky bit. -/
theorem clean_runOp_iff {i : Instr} (s : State) (hi : i.isRequest = true) (hinit : ∀ count0, i ≠ .valInit count0) :
    (runOp i s).Clean ↔ s.Clean ∧ ∀ c, (runOp i s).completion = some c → ¬c.code.Sticks := by
  obtain ⟨t, h, hend⟩ := exec_request_end s hi
  rw [runOp_of_exec h]
  rcases hend with ⟨v, hok⟩ | ⟨c, hc, rfl⟩ | rfl | ⟨-, c, hc, rfl⟩
  · have hnone : ¬ResultCode.ok.Sticks := fun ⟨h1, _⟩ => absurd h1 (by decide)
    simp [State.Clean, exec_ok_sticky h hinit hok, hok, hnone]
  · simp [State.Clean, hc.not_sticks]
  · have hsticks : ResultCode.truncatedInput.Sticks := ⟨by decide, by decide⟩
    simp [State.Clean, stickyWith_ne_zero _ hsticks, hsticks]
  · simp [State.Clean, stickyWith_ne_zero _ hc.sticks, hc.sticks]

/-- The same over a sequence of requests. -/
theorem clean_statesAfter_iff (is : List Instr) (s : State) (hreq : ∀ i ∈ is, i.isRequest = true)
    (hinit : ∀ i ∈ is, ∀ count0, i ≠ .valInit count0) :
    ((statesAfter is s).getLastD s).Clean ↔
      s.Clean ∧ ∀ t ∈ statesAfter is s, ∀ c, t.completion = some c → ¬c.code.Sticks := by
  induction is generalizing s with
  | nil => simp [statesAfter]
  | cons i is ih =>
    rw [List.forall_mem_cons] at hreq hinit
    obtain ⟨hreqHead, hreqTail⟩ := hreq
    obtain ⟨hinitHead, hinitTail⟩ := hinit
    rw [statesAfter, List.getLastD_cons, ih (runOp i s) hreqTail hinitTail, clean_runOp_iff s hreqHead hinitHead,
      List.forall_mem_cons, and_assoc]

/-- Settles O47: `clean_statesAfter_iff` from a clean state. -/
theorem stickyTellsWhetherAnyChunkFailed : Obligations.StickyTellsWhetherAnyChunkFailed := fun is s hs hreq hinit =>
  (clean_statesAfter_iff is s hreq hinit).trans (and_iff_right hs)

end Sys2Proof.Machine
end
